-- ==== Sys2Proof/Word.lean ====
section
/-! DEFINITION. The widths of the block's data and the three-lane shape every sample register has. -/

namespace Sys2Proof

/-- One byte of the device register space (rule R54) or of `BUF` (R27). -/
abbrev Byte := BitVec 8

/-- An `i16` of rule R12: a raw or a corrected word, read as two's complement. -/
abbrev I16 := BitVec 16

/-- An `f32` of rule R12, held as its binary32 pattern. -/
abbrev F32 := BitVec 32

/-- The packed `CFG` register of rule R25: MODE in bits 5:4, FR in 3, JUST in 2, RANGE in 1:0. -/
abbrev CfgWord := BitVec 6

/-- A command word of rule R81. -/
abbrev Command := BitVec 64

/-- The three lanes of a stage register (R14): index 0 is x, 1 is y, 2 is z. -/
structure Lanes (α : Type) where
  x : α
  y : α
  z : α
deriving DecidableEq, Repr

/-- The same operation on each lane; the lanes do not interact (R133). -/
def Lanes.map {α β : Type} (f : α → β) (l : Lanes α) : Lanes β := ⟨f l.x, f l.y, f l.z⟩

/-- Lane `a` of a stage register (R14). -/
def Lanes.get {α : Type} (l : Lanes α) : Fin 3 → α
  | 0 => l.x
  | 1 => l.y
  | 2 => l.z

/-- The six bytes of one raw record, in buffer order (R9 `REC_BYTES`, R42). -/
structure Six where
  b0 : Byte
  b1 : Byte
  b2 : Byte
  b3 : Byte
  b4 : Byte
  b5 : Byte
deriving DecidableEq, Repr

end Sys2Proof
end

