-- ==== Sys2Proof/Config.lean ====
section
/-! DEFINITION. The implementation parameters of spec/00_scope.md rule R9 as plain data, and the one free value.

`exec` and `step` take no configuration argument, so a `Params` rides in the state and no step writes it
(assumption 1): a statement over every state is a statement over every choice of the parameters. The spec's own
values are `Machine.specParams`, in Machine/Defaults.lean. -/

namespace Sys2Proof

/-- Acquisition modes (R35). -/
inductive Mode
  | bypass
  | fifo
  | stream
  | trigger
deriving DecidableEq, Repr

/-- Full-scale ranges (R36): ±2 g, ±4 g, ±8 g, ±16 g. -/
inductive Range
  | g2
  | g4
  | g8
  | g16
deriving DecidableEq, Repr

/-- Output justification (R36). -/
inductive Justify
  | right
  | left
deriving DecidableEq, Repr

/-- `NUMERICS` (R9, R144): one binary32 multiply, or a binary64 multiply that is then narrowed. -/
inductive Numerics
  | f32Rne
  | f64Narrow
deriving DecidableEq, Repr

/-- `RESOLVE_ORDER` (92_eei_decisions.md D7, 93_implementation_defined.md U12): which resolver read comes first. -/
inductive ResolveOrder
  | ctlFirst
  | fmtFirst
deriving DecidableEq, Repr

/-- What each value of a two-bit field stands for: the value 0 is `c0`, and so on (R35, R36, U11). -/
structure Code4 (α : Type) where
  c0 : α
  c1 : α
  c2 : α
  c3 : α
deriving DecidableEq, Repr

/-- The meaning of a two-bit value. -/
def Code4.at {α : Type} (t : Code4 α) (b : BitVec 2) : α :=
  match b.getLsbD 1, b.getLsbD 0 with
  | false, false => t.c0
  | false, true => t.c1
  | true, false => t.c2
  | true, true => t.c3

/-- A scale literal as the source prints it, `mant / 10 ^ places`. The bounds keep every product of a 16-bit
count and a literal inside the normal range of binary32, so no infinity can arise (assumption 12). -/
structure Decimal where
  mant : Fin 65536
  places : Fin 16
deriving DecidableEq, Repr

/-- The parameters a model takes (R9). -/
structure Params where
  /-- `ADDR_INT_SOURCE`. -/
  addrIntSource : Byte
  /-- `ADDR_DATA_FORMAT`. -/
  addrDataFormat : Byte
  /-- `ADDR_DATAX0`; the other five data registers follow it. -/
  addrDataX0 : Byte
  /-- `ADDR_FIFO_CTL`. -/
  addrFifoCtl : Byte
  /-- `ADDR_FIFO_STATUS`. -/
  addrFifoStatus : Byte
  /-- `ADDR_BW_RATE`, never accessed by the block (R39). -/
  addrBwRate : Byte
  /-- `ENC_MODE`. -/
  encMode : Code4 Mode
  /-- `ENC_RANGE`. -/
  encRange : Code4 Range
  /-- `ENC_JUST`: the value of the JUST bit that means Left. -/
  justLeft : Bool
  /-- `ENC_FR`: the value of the FR bit that means full_resolution true. -/
  frTrue : Bool
  /-- `SCALE_G2`. -/
  scaleG2 : Decimal
  /-- `SCALE_G4`. -/
  scaleG4 : Decimal
  /-- `SCALE_G8`. -/
  scaleG8 : Decimal
  /-- `SCALE_G16`. -/
  scaleG16 : Decimal
  /-- `SCALE_FULL`. -/
  scaleFull : Decimal
  /-- `NUMERICS`. -/
  numerics : Numerics
  /-- `RESOLVE_ORDER`. -/
  order : ResolveOrder
deriving DecidableEq, Repr

/-- FREE VALUE (assumption 2): what register number `slot` holds while it "holds no value" (R45, U5), at draw
number `draw`. It has no body, so nothing can be proved of it. -/
opaque Config.noValue (draw slot : Nat) : Nat

/-- `MAX_REC` (R9): the most records one READ can return. -/
def maxRec : Nat := 63

/-- `BUF_BYTES` (R9): six bytes for each of `MAX_REC` records. -/
def bufBytes : Nat := 378

/-- `FIFO_DEPTH` (R9): the samples the device is said to buffer; the block does not use it (90_conflicts.md C4). -/
def fifoDepth : Nat := 32

end Sys2Proof
end

