-- ==== Sys2Proof/Syntax.lean ====
section
/-! DEFINITION. The four commands of spec/30_encoding.md, one constructor for each row of the opcode table. -/

namespace Sys2Proof

/-- The two bits that stand for the device handle (R82): `HP` handle present, `HI` handle initialized. -/
structure Handle where
  hp : Bool
  hi : Bool
deriving DecidableEq, Repr

/-- The operations with the fields each of them reads (R84); every other bit of the word is ignored (R92). -/
inductive Instr
  /-- `RESOLVE h` (R103). -/
  | resolve (h : Handle)
  /-- `READ h, len` (R111). -/
  | read (h : Handle) (len : BitVec 16)
  /-- `DECODE cfg, b0 b1 b2 b3 b4 b5` (R131): `OPCFG` and the 48-bit `OPB`. -/
  | decode (opcfg : CfgWord) (opb : BitVec 48)
  /-- `DISPATCH h` (R161). -/
  | dispatch (h : Handle)
deriving DecidableEq, Repr

end Sys2Proof
end

