-- ==== Sys2Proof/Machine/Regs.lean ====
section
/-! DEFINITION. The block registers of spec/10_state.md sections 2 and 3, all but `PHASE` gathered in one record,
because all of them lose their value together (R45). -/

namespace Sys2Proof.Machine

/-- `PHASE` (R23): the sequencer's enumeration, the block's program counter (R21). -/
inductive Phase
  /-- No operation; a command can be accepted. -/
  | idle
  /-- Argument checks of the accepted command. -/
  | chk
  /-- The `FIFO_CTL` read is outstanding. -/
  | res0
  /-- The `DATA_FORMAT` read is outstanding. -/
  | res1
  /-- The `FIFO_STATUS` read is outstanding. -/
  | stat
  /-- The burst read is outstanding. -/
  | burst
  /-- Decoding record `IDX`. -/
  | dec
  /-- The `INT_SOURCE` read is outstanding. -/
  | srcrd
  /-- Choosing the next event from `PEND`. -/
  | scan
  /-- Event `K` is presented and the sink has not taken it. -/
  | emit
deriving DecidableEq, Repr

/-- `OP` (R24, R83). -/
inductive Op
  | resolve
  | read
  | decode
  | dispatch
deriving DecidableEq, Repr

/-- The error kinds, a closed set of four (R180). -/
inductive ErrorKind
  | transportError
  | nullHandle
  | notInitialized
  | lengthZero
deriving DecidableEq, Repr

/-- `STATUS` (R34, R88): five values; the codes 5 to 7 cannot be constructed (93_implementation_defined.md U9). -/
inductive Status
  | ok
  | transportError
  | nullHandle
  | notInitialized
  | lengthZero
deriving DecidableEq, Repr

/-- One sample's results (R32): the word before correction, the word after it, and the value in g. -/
structure Record where
  raw : Lanes I16
  cor : Lanes I16
  g : Lanes F32
deriving DecidableEq, Repr

/-- Every block register but `PHASE`. -/
structure Regs where
  /-- Command latch `OP` (R24). -/
  op : Op
  /-- Command latch `HP` (R24). -/
  hp : Bool
  /-- Command latch `HI` (R24). -/
  hi : Bool
  /-- Command latch `LEN` (R24). -/
  len : BitVec 16
  /-- Command latch `OPB` (R24). -/
  opb : BitVec 48
  /-- Command latch `OPCFG` (R24). -/
  opcfg : CfgWord
  /-- `CFG` (R25). -/
  cfg : CfgWord
  /-- `CNT` (R26). -/
  cnt : BitVec 6
  /-- `ALEN` (R26). -/
  alen : BitVec 6
  /-- `BUF[0]` to `BUF[377]` (R27). -/
  buf : Vector Byte bufBytes
  /-- `IDX` (R28). -/
  idx : BitVec 6
  /-- `RAW[0..2]` (R29). -/
  raw : Lanes I16
  /-- `COR[0..2]` (R30). -/
  cor : Lanes I16
  /-- `G[0..2]` (R31). -/
  g : Lanes F32
  /-- `RES[0..62]` (R32). -/
  res : Vector Record maxRec
  /-- `SRC` (R33). -/
  src : Byte
  /-- `PEND` (R33). -/
  pend : Byte
  /-- `K` (R33). -/
  k : BitVec 3
  /-- `STATUS` (R34). -/
  status : Status
deriving DecidableEq, Repr

end Sys2Proof.Machine
end

