-- ==== Sys2Proof/Machine/Defaults.lean ====
section
/-! DEFINITION. The spec's own values of the parameters (spec/00_scope.md rule R9, spec/10_state.md rules R35 and
R36), and what the block registers hold while they hold no value (R45). -/

namespace Sys2Proof.Machine

/-- The values of R9's table. The addresses are the spec's, from general knowledge (G1); the encodings follow the
listing order of R35 and R36; the literals are the source's (R10). -/
def specParams : Params where
  addrIntSource := 0x30
  addrDataFormat := 0x31
  addrDataX0 := 0x32
  addrFifoCtl := 0x38
  addrFifoStatus := 0x39
  addrBwRate := 0x2C
  encMode := ⟨.bypass, .fifo, .stream, .trigger⟩
  encRange := ⟨.g2, .g4, .g8, .g16⟩
  justLeft := true
  frTrue := true
  scaleG2 := ⟨39, 4⟩
  scaleG4 := ⟨78, 4⟩
  scaleG8 := ⟨156, 4⟩
  scaleG16 := ⟨312, 4⟩
  scaleFull := ⟨39, 4⟩
  numerics := .f32Rne
  order := .ctlFirst

/-- The unknown pattern of a `w`-bit register at draw `d`. -/
def freeBits (w d slot : Nat) : BitVec w := BitVec.ofNat w (Config.noValue d slot)

/-- The unknown value of a one-bit register. -/
def freeBit (d slot : Nat) : Bool := (freeBits 1 d slot).getLsbD 0

/-- The unknown patterns of a stage register, lanes at consecutive slots. -/
def freeLanes (w d slot : Nat) : Lanes (BitVec w) :=
  ⟨freeBits w d slot, freeBits w d (slot + 1), freeBits w d (slot + 2)⟩

/-- The unknown operation latch. -/
def freeOp (d slot : Nat) : Op :=
  match freeBit d slot, freeBit d (slot + 1) with
  | false, false => .resolve
  | false, true => .read
  | true, false => .decode
  | true, true => .dispatch

/-- The unknown status, one of the five that can be constructed (U9). -/
def freeStatus (d slot : Nat) : Status :=
  match Config.noValue d slot with
  | 0 => .ok
  | 1 => .transportError
  | 2 => .nullHandle
  | 3 => .notInitialized
  | _ => .lengthZero

/-- The unknown contents of `BUF`. -/
def freeBuf (d : Nat) : Vector Byte bufBytes :=
  ⟨⟨(List.range bufBytes).map fun i => freeBits 8 d (1000 + i)⟩, by simp⟩

/-- The unknown contents of one entry of `RES`. -/
def freeRecord (d slot : Nat) : Record :=
  ⟨freeLanes 16 d slot, freeLanes 16 d (slot + 3), freeLanes 32 d (slot + 6)⟩

/-- The unknown contents of `RES`. -/
def freeRes (d : Nat) : Vector Record maxRec :=
  ⟨⟨(List.range maxRec).map fun i => freeRecord d (2000 + 9 * i)⟩, by simp⟩

/-- The block registers while they hold no value, at draw `d` (R45): each its own free value, never zero by
assumption (U5). -/
@[irreducible] def deadRegs (d : Nat) : Regs where
  op := freeOp d 0
  hp := freeBit d 2
  hi := freeBit d 3
  len := freeBits 16 d 4
  opb := freeBits 48 d 5
  opcfg := freeBits 6 d 6
  cfg := freeBits 6 d 7
  cnt := freeBits 6 d 8
  alen := freeBits 6 d 9
  buf := freeBuf d
  idx := freeBits 6 d 10
  raw := freeLanes 16 d 11
  cor := freeLanes 16 d 14
  g := freeLanes 32 d 17
  res := freeRes d
  src := freeBits 8 d 20
  pend := freeBits 8 d 21
  k := freeBits 3 d 22
  status := freeStatus d 23

end Sys2Proof.Machine
end

