-- ==== Sys2Proof/Machine/State.lean ====
section
/-! DEFINITION. The state of the machine: the block's registers, its parameters, and the four ports through which
the other agents of rule R18 reach it, each as plain data. -/

namespace Sys2Proof.Machine

/-- The direction of a transport request (R94). -/
inductive Direction
  | read
  /-- Defined by the transport contract and never issued by the block (R53). -/
  | write
deriving DecidableEq, Repr

/-- A transport request as the block presents it (R94). -/
structure Request where
  dir : Direction
  addr : Byte
  n : BitVec 16
deriving DecidableEq, Repr

/-- A transport answer (R50, R94). -/
inductive Answer
  | fail
  | ok (bytes : List Byte)
deriving DecidableEq, Repr

/-- A completion (R87). A field that is not valid is `none`, so it holds no value. -/
structure Completion where
  status : Status
  alen : Option (BitVec 6)
  cfg : Option CfgWord
  recs : List Record
deriving DecidableEq, Repr

/-- What passes at a port, as the other agents see it (95_test_vectors.md, the traces of part 3). -/
inductive PortItem
  /-- A request put on the transport port. -/
  | request (r : Request)
  /-- An event code the sink took (R165). -/
  | event (ev : BitVec 3)
  /-- A completion presented to the host. -/
  | completion (c : Completion)
deriving DecidableEq, Repr

/-- The whole machine. `phase` and `regs` are the block's state (R20); the rest is what stands at its ports. -/
structure State where
  /-- `PHASE` (R23). -/
  phase : Phase
  /-- Every other block register. -/
  regs : Regs
  /-- The implementation parameters (R9); no step writes them (assumption 1). -/
  par : Params
  /-- The command words the host has offered and the block has not accepted, the one at the port first (R80). -/
  cmds : List Command
  /-- The answers the transport will give, in order; an empty list is a transport that has not answered (R67). -/
  answers : List Answer
  /-- How many more events the sink will take; 0 is a sink that has not taken the presented one (R165). -/
  takes : Nat
  /-- The reset input (R210). -/
  rst : Bool
  /-- What has passed at the ports, oldest first. -/
  trace : List PortItem
  /-- MODEL'S OWN FIELD: the draw number of the next free value (assumption 2). -/
  draws : Nat
deriving DecidableEq, Repr

/-- The faults: what stops the machine where the spec gives no next state. -/
inductive Fault
  /-- Raised by `tick` in a state that no row of the transition tables R121 and R169 covers ("no other transition
  exists"). SAFE: no run reaches such a state (statement `SafeStateNeverFaults`). -/
  | noTransition (p : Phase)
deriving DecidableEq, Repr

/-- The refusals: what the model gives no meaning to. -/
inductive Refusal
  /-- Raised by an arm of `exec` whose instruction has no meaning yet; no arm does. SAFE. -/
  | notModelled (mnemonic : String)
  /-- Raised by `onAnswer` when the transport breaks its duty of rule R223 and answers `ok` with another number of
  bytes than asked: "it has no defined behaviour" (93_implementation_defined.md U3, "Treat as: refuse"). UNSAFE only
  for a transport that breaks its contract (assumption 9). -/
  | answerLength (asked got : Nat)
deriving DecidableEq, Repr

/-- The machine right after reset (R45, R210): `PHASE` = `IDLE`, nothing outstanding, presented or offered; every
other block register holds no value (assumption 2), and the parameters are the spec's. -/
def State.reset : State where
  phase := .idle
  regs := deadRegs 0
  par := specParams
  cmds := []
  answers := []
  takes := 0
  rst := false
  trace := []
  draws := 1

end Sys2Proof.Machine
end

