-- ==== Sys2Proof/Machine/Flags.lean ====
section
/-! DEFINITION. `STATUS`, the block's only flag (R34): its codes, the status of each error kind, and the completion
header that carries it. No operation writes a flag as a side effect, and there is no floating-point flag (R31). -/

namespace Sys2Proof.Machine

/-- The codes of R88. -/
def Status.code : Status → BitVec 3
  | .ok => 0
  | .transportError => 1
  | .nullHandle => 2
  | .notInitialized => 3
  | .lengthZero => 4

/-- The status an error kind is reported with (R181, R182, R183, R185). -/
def ErrorKind.status : ErrorKind → Status
  | .transportError => .transportError
  | .nullHandle => .nullHandle
  | .notInitialized => .notInitialized
  | .lengthZero => .lengthZero

/-- `STATUS <- v`. -/
def State.setStatus (v : Status) (s : State) : State := { s with regs := { s.regs with status := v } }

/-- The packed completion header of R89. The fields that are not valid may hold any bits: they are taken from
`fill`, which a claim quantifies over. -/
def Completion.header (c : Completion) (fill : BitVec 12) : BitVec 16 :=
  c.status.code ++ 0#1 ++ c.alen.getD (fill.extractLsb' 6 6) ++ c.cfg.getD (fill.extractLsb' 0 6)

end Sys2Proof.Machine
end

