-- ==== Sys2Proof/Machine/Operands.lean ====
section
/-! DEFINITION. Every operand form: the fields of the command operands, of `CFG`, of the device registers' bytes,
the six-byte records of `BUF`, and the three operands of a request. -/

namespace Sys2Proof.Machine

/-! ## Command operands (spec/30_encoding.md rules R83 and R85) -/

/-- The operation bits `OP` of a word, bits 63:62 (R81, R83). -/
def commandOp (w : Command) : Op :=
  match w.getLsbD 63, w.getLsbD 62 with
  | false, false => .resolve
  | false, true => .read
  | true, false => .decode
  | true, true => .dispatch

/-- `b[k] = OPERAND[8k+7 : 8k]` (R85). -/
def opbByte (opb : BitVec 48) (k : Nat) : Byte := opb.extractLsb' (8 * k) 8

/-- The six operand bytes of `DECODE` in buffer order (R85, R131). -/
def opbBytes (opb : BitVec 48) : List Byte :=
  [opbByte opb 0, opbByte opb 1, opbByte opb 2, opbByte opb 3, opbByte opb 4, opbByte opb 5]

/-! ## The fields of `CFG` (spec/10_state.md rules R25, R35, R36) -/

/-- The acquisition mode, `CFG[5:4]` under `ENC_MODE`. -/
def cfgMode (p : Params) (c : CfgWord) : Mode := p.encMode.at (c.extractLsb' 4 2)

/-- full_resolution, `CFG[3]` under `ENC_FR`. -/
def cfgFull (p : Params) (c : CfgWord) : Bool := c.getLsbD 3 == p.frTrue

/-- The justification, `CFG[2]` under `ENC_JUST`. -/
def cfgJust (p : Params) (c : CfgWord) : Justify := if c.getLsbD 2 = p.justLeft then .left else .right

/-- The range, `CFG[1:0]` under `ENC_RANGE`. -/
def cfgRange (p : Params) (c : CfgWord) : Range := p.encRange.at (c.extractLsb' 0 2)

/-! ## The fields of the device registers' bytes (spec/10_state.md rules R38 to R43) -/

/-- `DATA_FORMAT[7]`, ignored by the block (R38). -/
def dataFormatSelfTest (b : Byte) : Bool := b.getLsbD 7

/-- `DATA_FORMAT[6]`, ignored by the block (R38). -/
def dataFormatSpiWire (b : Byte) : Bool := b.getLsbD 6

/-- `DATA_FORMAT[5]`, ignored by the block (R38). -/
def dataFormatIntActiveLevel (b : Byte) : Bool := b.getLsbD 5

/-- `DATA_FORMAT[3]` (R38). -/
def dataFormatFullResolution (b : Byte) : BitVec 1 := b.extractLsb' 3 1

/-- `DATA_FORMAT[2]` (R38). -/
def dataFormatJustify (b : Byte) : BitVec 1 := b.extractLsb' 2 1

/-- `DATA_FORMAT[1:0]` (R38). -/
def dataFormatRange (b : Byte) : BitVec 2 := b.extractLsb' 0 2

/-- `BW_RATE[4:0]`, never read by the block (R39). -/
def bwRateOutputRate (b : Byte) : BitVec 5 := b.extractLsb' 0 5

/-- `FIFO_CTL[7:6]` (R40). -/
def fifoCtlMode (b : Byte) : BitVec 2 := b.extractLsb' 6 2

/-- `FIFO_CTL[5]`, ignored by the block (R40). -/
def fifoCtlTriggerPin (b : Byte) : Bool := b.getLsbD 5

/-- `FIFO_CTL[4:0]`, ignored by the block (R40). -/
def fifoCtlWatermark (b : Byte) : BitVec 5 := b.extractLsb' 0 5

/-- `FIFO_STATUS[7]`, ignored by the block (R41). -/
def fifoStatusTriggerOccurred (b : Byte) : Bool := b.getLsbD 7

/-- `FIFO_STATUS[5:0]` (R41). -/
def fifoStatusCount (b : Byte) : BitVec 6 := b.extractLsb' 0 6

/-- The events of R43 and R191, by the bit position that is also their code (R91). -/
inductive Event
  | overrun
  | watermark
  | freeFall
  | inactivity
  | activity
  | doubleTap
  | singleTap
  | dataReady
deriving DecidableEq, Repr

/-- The event code `EV` (R91). -/
def Event.code : Event → BitVec 3
  | .overrun => 0
  | .watermark => 1
  | .freeFall => 2
  | .inactivity => 3
  | .activity => 4
  | .doubleTap => 5
  | .singleTap => 6
  | .dataReady => 7

/-- `INT_SOURCE` bit of an event: 1 means asserted (R43). -/
def intSourceBit (b : Byte) (e : Event) : Bool := b.getLsbD e.code.toNat

/-! ## `CFG` built from the two resolver bytes (spec/40_mode_resolver.md rule R102) -/

/-- `CFG[5:4] <- B[7:6]`. -/
def cfgWithMode (c : CfgWord) (fifoCtl : Byte) : CfgWord := fifoCtlMode fifoCtl ++ c.extractLsb' 0 4

/-- `CFG[3] <- B[3]`, `CFG[2] <- B[2]`, `CFG[1:0] <- B[1:0]`. -/
def cfgWithFormat (c : CfgWord) (fmt : Byte) : CfgWord :=
  c.extractLsb' 4 2 ++ dataFormatFullResolution fmt ++ dataFormatJustify fmt ++ dataFormatRange fmt

/-! ## Lengths (spec/41_batch_reader.md rules R114, R116) -/

/-- `min` of two unsigned 16-bit numbers (R13). -/
def minU (a b : BitVec 16) : BitVec 16 := if a.toNat ≤ b.toNat then a else b

/-- `min(LEN, zext_16(CNT))[5:0]` (R111, R114). -/
def actualLen (len : BitVec 16) (cnt : BitVec 6) : BitVec 6 := (minU len (cnt.setWidth 16)).setWidth 6

/-- `6 * ALEN` as the request's 16-bit length (R116). -/
def burstLen (alen : BitVec 6) : BitVec 16 := 6 * alen.setWidth 16

/-! ## `BUF` (spec/10_state.md rule R27) -/

/-- `B[0]` of an answer. -/
def firstByte (bs : List Byte) : Byte := bs.headD 0

/-- `BUF[k] <- bs[k]` for every `k` below the length of `bs`; the other bytes stay. -/
def writeBuf (buf : Vector Byte bufBytes) (bs : List Byte) : Vector Byte bufBytes :=
  ⟨⟨(bs ++ buf.toList.drop bs.length).take bufBytes⟩, by simp; omega⟩

/-- `BUF[k]`. -/
def bufByte (buf : Vector Byte bufBytes) (k : Nat) : Byte := buf.toList.getD k 0

/-- Record `i` of `BUF`: `BUF[6i]` to `BUF[6i+5]` (R117). -/
def bufRecord (buf : Vector Byte bufBytes) (i : Nat) : Six :=
  ⟨bufByte buf (6 * i), bufByte buf (6 * i + 1), bufByte buf (6 * i + 2), bufByte buf (6 * i + 3),
   bufByte buf (6 * i + 4), bufByte buf (6 * i + 5)⟩

/-- Record `i` of a burst answer, by position in the answer (R57). -/
def answerRecord (bs : List Byte) (i : Nat) : Six :=
  ⟨bs.getD (6 * i) 0, bs.getD (6 * i + 1) 0, bs.getD (6 * i + 2) 0, bs.getD (6 * i + 3) 0,
   bs.getD (6 * i + 4) 0, bs.getD (6 * i + 5) 0⟩

/-! ## The five requests (spec/20_memory.md rule R52), the only ones the block makes -/

/-- `MemRead(ADDR_FIFO_CTL, 1)`. -/
def reqFifoCtl (p : Params) : Request := ⟨.read, p.addrFifoCtl, 1⟩

/-- `MemRead(ADDR_DATA_FORMAT, 1)`. -/
def reqDataFormat (p : Params) : Request := ⟨.read, p.addrDataFormat, 1⟩

/-- `MemRead(ADDR_FIFO_STATUS, 1)`. -/
def reqFifoStatus (p : Params) : Request := ⟨.read, p.addrFifoStatus, 1⟩

/-- `MemRead(ADDR_DATAX0, 6*ALEN)`. -/
def reqBurst (p : Params) (alen : BitVec 6) : Request := ⟨.read, p.addrDataX0, burstLen alen⟩

/-- `MemRead(ADDR_INT_SOURCE, 1)`. -/
def reqIntSource (p : Params) : Request := ⟨.read, p.addrIntSource, 1⟩

/-! ## Result records (spec/30_encoding.md rule R90) -/

/-- The 192-bit record of R90. -/
def Record.pack (r : Record) : BitVec 192 :=
  r.g.z ++ r.g.y ++ r.g.x ++ r.cor.z ++ r.cor.y ++ r.cor.x ++ r.raw.z ++ r.raw.y ++ r.raw.x

end Sys2Proof.Machine
end

