-- ==== Sys2Proof/Machine/Ops.lean ====
section
/-! DEFINITION. The named operations of the block: register writes, the transport request and its answer, command
acceptance, `raise`, the completion, and the reset input. Every meaning and every sequencer row is written over them. -/

namespace Sys2Proof.Machine

/-- What a step answers. -/
abbrev Out := Host.Outcome State Fault Refusal

/-! ## Register writes -/

/-- `PHASE <- p`. -/
def State.setPhase (p : Phase) (s : State) : State := { s with phase := p }

/-- `CFG <- v`. -/
def State.setCfg (v : CfgWord) (s : State) : State := { s with regs := { s.regs with cfg := v } }

/-- `CNT <- v`. -/
def State.setCnt (v : BitVec 6) (s : State) : State := { s with regs := { s.regs with cnt := v } }

/-- `ALEN <- v`. -/
def State.setAlen (v : BitVec 6) (s : State) : State := { s with regs := { s.regs with alen := v } }

/-- `BUF[k] <- bs[k]` for every `k` below the length of `bs`. -/
def State.loadBuf (bs : List Byte) (s : State) : State :=
  { s with regs := { s.regs with buf := writeBuf s.regs.buf bs } }

/-- `IDX <- v`. -/
def State.setIdx (v : BitVec 6) (s : State) : State := { s with regs := { s.regs with idx := v } }

/-- `RAW <- v`. -/
def State.setRaw (v : Lanes I16) (s : State) : State := { s with regs := { s.regs with raw := v } }

/-- `COR <- v`. -/
def State.setCor (v : Lanes I16) (s : State) : State := { s with regs := { s.regs with cor := v } }

/-- `G <- v`. -/
def State.setG (v : Lanes F32) (s : State) : State := { s with regs := { s.regs with g := v } }

/-- `RES[i] <- {RAW, COR, G}` (R32). -/
def State.storeRecord (i : Nat) (s : State) : State :=
  { s with regs := { s.regs with res := s.regs.res.setIfInBounds i ⟨s.regs.raw, s.regs.cor, s.regs.g⟩ } }

/-- `SRC <- v`. -/
def State.setSrc (v : Byte) (s : State) : State := { s with regs := { s.regs with src := v } }

/-- `PEND <- v`. -/
def State.setPend (v : Byte) (s : State) : State := { s with regs := { s.regs with pend := v } }

/-- `K <- v`. -/
def State.setK (v : BitVec 3) (s : State) : State := { s with regs := { s.regs with k := v } }

/-! ## The ports -/

/-- The host's remaining command words. -/
def State.setCmds (ws : List Command) (s : State) : State := { s with cmds := ws }

/-- The transport's remaining answers. -/
def State.setAnswers (as : List Answer) (s : State) : State := { s with answers := as }

/-- The events the sink will still take. -/
def State.setTakes (n : Nat) (s : State) : State := { s with takes := n }

/-- One more item has passed at a port. -/
def State.log (x : PortItem) (s : State) : State := { s with trace := s.trace ++ [x] }

/-! ## What the other agents can do to the machine between two steps (spec/00_scope.md rule R18) -/

/-- The host offers one more command word, behind those already offered (R80, R222). -/
def State.offer (w : Command) (s : State) : State := { s with cmds := s.cmds ++ [w] }

/-- The transport gives one more answer (R50). -/
def State.giveAnswer (a : Answer) (s : State) : State := { s with answers := s.answers ++ [a] }

/-- The sink becomes ready to take `n` more events (R165). -/
def State.sinkReady (n : Nat) (s : State) : State := { s with takes := s.takes + n }

/-- The reset input is asserted (R210). -/
def State.assertReset (s : State) : State := { s with rst := true }

/-! ## Registers losing their value (spec/10_state.md rule R45) -/

/-- Every block register but `PHASE` holds no value from now on: each takes a fresh free value. -/
def State.retire (s : State) : State := { s with regs := deadRegs s.draws, draws := s.draws + 1 }

/-- The reset input takes effect: the operation in progress is abandoned, no completion is given for it, no further
request or event of it is made, and what has passed at the ports stays (R210, R211). -/
def State.applyReset (s : State) : State := { s.retire with phase := .idle, rst := false }

/-! ## Command acceptance (spec/30_encoding.md rule R80): the fields latched, `PHASE <- CHK`

`latchWord` writes the whole command latch from the accepted word (R24, R81). `accept` starts the operation with the
operands the decoder read (R84), which are the same bits, so it also starts a command that comes with no word
(assumption 16). -/

/-- The six latch registers take their fields of the accepted word, whatever the operation (R24, R81). -/
def State.latchWord (w : Command) (s : State) : State :=
  { s with regs := { s.regs with
      op := commandOp w, hp := w.getLsbD 55, hi := w.getLsbD 54, len := w.extractLsb' 0 16,
      opb := w.extractLsb' 0 48, opcfg := w.extractLsb' 56 6 } }

/-- `RESOLVE` is accepted. -/
def acceptResolve (h : Handle) (s : State) : State :=
  { s with phase := .chk, regs := { s.regs with op := .resolve, hp := h.hp, hi := h.hi } }

/-- `READ` is accepted. -/
def acceptRead (h : Handle) (len : BitVec 16) (s : State) : State :=
  { s with phase := .chk, regs := { s.regs with op := .read, hp := h.hp, hi := h.hi, len := len } }

/-- `DECODE` is accepted. It has no checks and goes to `DEC` at once (R131, R169; assumption 6). -/
def acceptDecode (opcfg : CfgWord) (opb : BitVec 48) (s : State) : State :=
  { s with phase := .dec, regs := { s.regs with op := .decode, opcfg := opcfg, opb := opb } }

/-- `DISPATCH` is accepted. -/
def acceptDispatch (h : Handle) (s : State) : State :=
  { s with phase := .chk, regs := { s.regs with op := .dispatch, hp := h.hp, hi := h.hi } }

/-- A command is accepted (R80). -/
def accept : Instr → State → State
  | .resolve h => acceptResolve h
  | .read h len => acceptRead h len
  | .decode opcfg opb => acceptDecode opcfg opb
  | .dispatch h => acceptDispatch h

/-! ## Ending an operation (spec/30_encoding.md rule R87, spec/60_exceptions.md rule R186) -/

/-- `STATUS` is written, one completion that carries it is presented, `PHASE <- IDLE`, and every other register
holds no value any more (R34, R45, R87). -/
def finish (v : Status) (alen : Option (BitVec 6)) (cfg : Option CfgWord) (recs : List Record) (s : State) : State :=
  let s := s.setStatus v
  ((s.log (.completion ⟨s.regs.status, alen, cfg, recs⟩)).setPhase .idle).retire

/-- `raise E` (R186), the block's exception entry: `STATUS` takes the code of `E`, the completion carries nothing
else valid, and nothing is saved, because there is nothing to come back to (R189). -/
def raise (e : ErrorKind) (s : State) : State := finish e.status none none [] s

/-- `Complete(OK, CFG)` of `RESOLVE` (R103). -/
def completeResolve (s : State) : State := finish .ok none (some s.regs.cfg) [] s

/-- `Complete(OK, ALEN, RES[0 .. ALEN-1])` of `READ` (R111, R115). -/
def completeRead (s : State) : State :=
  finish .ok (some s.regs.alen) none (s.regs.res.toList.take s.regs.alen.toNat) s

/-- `Complete(OK, ALEN = 1, RES[0])` of `DECODE` (R131). -/
def completeDecode (s : State) : State := finish .ok (some 1) none (s.regs.res.toList.take 1) s

/-- `Complete(OK)` of `DISPATCH` (R161). -/
def completeDispatch (s : State) : State := finish .ok none none [] s

/-! ## The argument checks (spec/60_exceptions.md rule R184) -/

/-- What the checks of the latched command find, in their order: handle present, handle initialized, and for `READ`
a length that is not zero. -/
def checkFailure (r : Regs) : Option ErrorKind :=
  if r.hp = false then some .nullHandle
  else if r.hi = false then some .notInitialized
  else if r.op = .read ∧ r.len = 0 then some .lengthZero
  else none

/-- The checks in phase `CHK`: the first that fails ends the operation before any transport request. -/
def checked (s : State) (k : State → Out) : Out :=
  match checkFailure s.regs with
  | some e => .next (raise e s)
  | none => k s

/-! ## Transport requests (spec/20_memory.md rules R50, R61, R66) -/

/-- A request is put on the transport port and the block waits in phase `p` for its answer. -/
def ask (p : Phase) (r : Request) (s : State) : State := (s.setPhase p).log (.request r)

/-- What the block does with the answer to its outstanding request for `n` bytes: it waits while there is none
(R67), `fail` ends the operation with `TransportError` (R66), `ok` with exactly `n` bytes goes on with `k`. -/
def onAnswer (n : Nat) (s : State) (k : List Byte → State → Out) : Out :=
  match s.answers with
  | [] => .next s
  | .fail :: rest => .next (raise .transportError (s.setAnswers rest))
  | .ok bs :: rest => if bs.length = n then k bs (s.setAnswers rest) else .refused (.answerLength n bs.length)

/-- `PHASE <- RES0`, `MemRead(ADDR_FIFO_CTL, 1)`. -/
def askFifoCtl (s : State) : State := ask .res0 (reqFifoCtl s.par) s

/-- `PHASE <- RES1`, `MemRead(ADDR_DATA_FORMAT, 1)`. -/
def askDataFormat (s : State) : State := ask .res1 (reqDataFormat s.par) s

/-- `PHASE <- STAT`, `MemRead(ADDR_FIFO_STATUS, 1)`. -/
def askFifoStatus (s : State) : State := ask .stat (reqFifoStatus s.par) s

/-- `PHASE <- BURST`, `MemRead(ADDR_DATAX0, 6 * ALEN)`. -/
def askBurst (s : State) : State := ask .burst (reqBurst s.par s.regs.alen) s

/-- `PHASE <- SRCRD`, `MemRead(ADDR_INT_SOURCE, 1)`. -/
def askIntSource (s : State) : State := ask .srcrd (reqIntSource s.par) s

end Sys2Proof.Machine
end

