-- ==== Sys2Proof/Machine/ModeResolver.lean ====
section
/-! DEFINITION. ModeResolver (spec/40_mode_resolver.md): `RESOLVE_SEQ`, which `READ` runs too, and `RESOLVE`. -/

namespace Sys2Proof.Machine

/-- The `FIFO_CTL` answer: `CFG[5:4] <- B[0][7:6]` (R102; assumption 5 for the moment of the write). -/
def gotFifoCtl (bs : List Byte) (s : State) : State := s.setCfg (cfgWithMode s.regs.cfg (firstByte bs))

/-- The `DATA_FORMAT` answer: `CFG[3:0] <- B[0][3:0]` (R102). -/
def gotDataFormat (bs : List Byte) (s : State) : State := s.setCfg (cfgWithFormat s.regs.cfg (firstByte bs))

/-- `RESOLVE_SEQ` (R102), in the order `RESOLVE_ORDER` gives (D7): the second read is not issued if the first
fails. -/
def resolveSeq (s : State) (k : State → Out) : Out :=
  match s.par.order with
  | .ctlFirst =>
    onAnswer 1 (askFifoCtl s) fun bs s =>
    onAnswer 1 (askDataFormat (gotFifoCtl bs s)) fun bs s =>
    k (gotDataFormat bs s)
  | .fmtFirst =>
    onAnswer 1 (askDataFormat s) fun bs s =>
    onAnswer 1 (askFifoCtl (gotDataFormat bs s)) fun bs s =>
    k (gotFifoCtl bs s)

/-- `RESOLVE h` (R103). -/
def execResolve (h : Handle) (s : State) : Out :=
  checked (acceptResolve h s) fun s =>
  resolveSeq s fun s =>
  .next (completeResolve s)

end Sys2Proof.Machine
end

