-- ==== Sys2Proof/Machine/Numerics.lean ====
section
/-! DEFINITION. The arithmetic of spec/42_sample_decoder.md rules R142 to R144: binary formats as counts of their
smallest unit, one rounding to nearest with ties to even, and the two settings of `NUMERICS`. -/

namespace Sys2Proof.Machine

/-! ## Rounding a ratio of naturals to a binary format -/

/-- The natural nearest to `n / d`, ties to the even one. -/
def nearestEven (n d : Nat) : Nat :=
  let q := n / d
  let r := n % d
  if 2 * r < d then q else if d < 2 * r then q + 1 else q + q % 2

/-- The magnitude pattern nearest to `num / den` in the binary format of `prec` significand bits whose smallest unit
is `2 ^ -low`, or `inf`, the format's infinity, where that is too large. The bits dropped are those past the
significand; adding the rounded significand to the exponent field carries into it when it overflows. -/
def roundMag (prec low inf num den : Nat) : Nat :=
  let n := num * 2 ^ low
  let q := n / den
  let drop := if q = 0 then 0 else Nat.log2 q + 1 - prec
  min (drop * 2 ^ (prec - 1) + nearestEven n (den * 2 ^ drop)) inf

/-- The number of smallest units in a finite magnitude pattern. -/
def unitsMag (prec b : Nat) : Nat :=
  let f := 2 ^ (prec - 1)
  if b / f = 0 then b % f else (f + b % f) * 2 ^ (b / f - 1)

/-- Infinity's magnitude pattern in binary32. -/
def inf32 : Nat := 0x7F800000

/-- Rounding to binary32: 24 significand bits, smallest unit `2 ^ -149`. -/
def round32 (num den : Nat) : Nat := roundMag 24 149 inf32 num den

/-- Units of `2 ^ -149` in a finite binary32 magnitude. -/
def units32 (b : Nat) : Nat := unitsMag 24 b

/-- Rounding to binary64: 53 significand bits, smallest unit `2 ^ -1074`. -/
def round64 (num den : Nat) : Nat := roundMag 53 1074 0x7FF0000000000000 num den

/-- Units of `2 ^ -1074` in a finite binary64 magnitude. -/
def units64 (b : Nat) : Nat := unitsMag 53 b

/-! ## Binary32 patterns -/

/-- The pattern with this sign and magnitude. -/
def f32Of (neg : Bool) (mag : Nat) : F32 := BitVec.ofBool neg ++ BitVec.ofNat 31 mag

/-- The magnitude bits of a pattern. -/
def f32Mag (a : F32) : Nat := (a.extractLsb' 0 31).toNat

/-- The sign bit of a pattern. -/
def f32Neg (a : F32) : Bool := a.msb

/-- A NaN pattern: above infinity. -/
def f32IsNaN (a : F32) : Bool := inf32 < f32Mag a

/-- An infinity. -/
def f32IsInf (a : F32) : Bool := f32Mag a == inf32

/-- `i2f32(v)`: always exact (R143). -/
def i2f32 (v : I16) : F32 := f32Of v.msb (round32 v.toInt.natAbs 1)

/-- `fmul32(a, b)` (R144): the exact product rounded once to binary32. The special operands follow IEEE 754; none of
them occurs, whatever the parameters are (assumption 12). -/
def fmul32 (a b : F32) : F32 :=
  let neg := f32Neg a ^^ f32Neg b
  if f32IsNaN a || f32IsNaN b then 0x7FC00000
  else if f32IsInf a || f32IsInf b then
    if f32Mag a = 0 || f32Mag b = 0 then 0x7FC00000 else f32Of neg inf32
  else f32Of neg (round32 (units32 (f32Mag a) * units32 (f32Mag b)) (2 ^ 298))

/-- `K32(c)`: the binary32 nearest to the decimal (R142). -/
def k32 (c : Decimal) : F32 := f32Of false (round32 c.mant.val (10 ^ c.places.val))

/-- `NUMERICS = F32_RNE`: one binary32 multiply (R141, R144). -/
def mulF32Rne (v : I16) (c : Decimal) : F32 := fmul32 (i2f32 v) (k32 c)

/-- `NUMERICS = F64_NARROW` (R144): the decimal rounded to binary64, the product rounded to binary64, the result
rounded to binary32. -/
def mulF64Narrow (v : I16) (c : Decimal) : F32 :=
  let k := units64 (round64 c.mant.val (10 ^ c.places.val))
  let p := units64 (round64 (v.toInt.natAbs * k) (2 ^ 1074))
  f32Of v.msb (round32 p (2 ^ 1074))

/-- `count x scale` under `NUMERICS` (R9, R144). -/
def mulScale (m : Numerics) (v : I16) (c : Decimal) : F32 :=
  match m with
  | .f32Rne => mulF32Rne v c
  | .f64Narrow => mulF64Narrow v c

end Sys2Proof.Machine
end

