-- ==== Sys2Proof/Machine/SampleDecoder.lean ====
section
/-! DEFINITION. SampleDecoder (spec/42_sample_decoder.md): the three stages over three lanes, `DECODE_ONE`, and the
`DECODE` operation. -/

namespace Sys2Proof.Machine

/-! ## Stage 1 -/

/-- `ASSEMBLE(lo, hi) = as_i16({hi, lo})` (R135). -/
def assemble (lo hi : Byte) : I16 := hi ++ lo

/-- The three raw words of a record (R135). -/
def assembleRecord (b : Six) : Lanes I16 := ⟨assemble b.b0 b.b1, assemble b.b2 b.b3, assemble b.b4 b.b5⟩

/-! ## Stage 2 -/

/-- The data width in full resolution (R136). -/
def fullWidth : Range → Nat
  | .g2 => 10
  | .g4 => 11
  | .g8 => 12
  | .g16 => 13

/-- `W(cfg)` (R136). -/
def width (p : Params) (c : CfgWord) : Nat := if cfgFull p c then fullWidth (cfgRange p c) else 10

/-- `S(cfg) = 16 - W(cfg)` (R136). -/
def shift (p : Params) (c : CfgWord) : Nat := 16 - width p c

/-- The high-bit mask `M = 0xFFFF << W` (R136). -/
def highMask (w : Nat) : I16 := 0xFFFF#16 <<< w

/-- `asr16(v, s)` (R13): the floor of `v / 2^s`. -/
def asr16 (v : I16) (s : Nat) : I16 := v.sshiftRight s

/-- `sext_16(v, w)` (R13): the low `w` bits of `v` as a `w`-bit two's complement number. -/
def sext16 (v : I16) (w : Nat) : I16 := (v.setWidth w).signExtend 16

/-- `CORRECT(raw, cfg)` (R137). -/
def correct (p : Params) (c : CfgWord) (raw : I16) : I16 :=
  match cfgJust p c with
  | .right => raw
  | .left => asr16 raw (shift p c)

/-! ## Stage 3 -/

/-- The constant `SCALE` multiplies by (R141). -/
def scaleConst (p : Params) (c : CfgWord) : Decimal :=
  if cfgFull p c then p.scaleFull
  else
    match cfgRange p c with
    | .g2 => p.scaleG2
    | .g4 => p.scaleG4
    | .g8 => p.scaleG8
    | .g16 => p.scaleG16

/-- `SCALE(cor, cfg)` (R141). -/
def scale (p : Params) (c : CfgWord) (cor : I16) : F32 := mulScale p.numerics cor (scaleConst p c)

/-! ## `DECODE_ONE` (R133), as a function and as writes of the stage registers -/

/-- `DECODE_ONE(b, cfg)` (R133). -/
def decodeOne (p : Params) (c : CfgWord) (b : Six) : Record :=
  let raw := assembleRecord b
  let cor := raw.map (correct p c)
  ⟨raw, cor, cor.map (scale p c)⟩

/-- The three stages on record `i` of `BUF` under `CFG`, each reading the register the one before it wrote, then
`RES[i] <- {RAW, COR, G}` (R29 to R32, R133). -/
def decodeInto (i : Nat) (s : State) : State :=
  let s := s.setRaw (assembleRecord (bufRecord s.regs.buf i))
  let s := s.setCor (s.regs.raw.map (correct s.par s.regs.cfg))
  let s := s.setG (s.regs.cor.map (scale s.par s.regs.cfg))
  s.storeRecord i

/-! ## `DECODE` (R131) -/

/-- The work of phase `DEC` for `DECODE`: the operand configuration and bytes, one record, the completion.
The bytes go through `BUF`, as the pseudocode of R131 says. It is all one transition, at whose end `BUF` holds no value
(R45), so no state shows a byte that `DECODE` wrote, and the table of R47 holds of every state: this function equals the
one that leaves `BUF` alone (`decodeOperand_eq_decodeDirect`; assumption 21). -/
def decodeOperand (s : State) : State :=
  let s := s.setCfg s.regs.opcfg
  let s := s.loadBuf (opbBytes s.regs.opb)
  completeDecode (decodeInto 0 s)

/-- `DECODE cfg, b0 b1 b2 b3 b4 b5` (R131). No error, no request, no event (R132). -/
def execDecode (opcfg : CfgWord) (opb : BitVec 48) (s : State) : Out :=
  .next (decodeOperand (acceptDecode opcfg opb s))

end Sys2Proof.Machine
end

