-- ==== Sys2Proof/Machine/BatchReader.lean ====
section
/-! DEFINITION. BatchReader (spec/41_batch_reader.md): how many records, the one burst, and the `READ` operation. -/

namespace Sys2Proof.Machine

/-- The `FIFO_STATUS` answer: `CNT <- B[0][5:0]`, `ALEN <- min(LEN, zext_16(CNT))[5:0]` (R113, R114). -/
def gotFifoStatus (bs : List Byte) (s : State) : State :=
  let s := s.setCnt (fifoStatusCount (firstByte bs))
  s.setAlen (actualLen s.regs.len s.regs.cnt)

/-- The burst answer: `BUF[k] <- B[k]`, and the decode begins at record 0 (R111, R121). -/
def gotBurst (bs : List Byte) (s : State) : State := ((s.loadBuf bs).setPhase .dec).setIdx 0

/-- One pass of the decode loop: record `IDX`, then the next index (R117, R121). -/
def decodeNext (s : State) : State :=
  let s := decodeInto s.regs.idx.toNat s
  s.setIdx (s.regs.idx + 1)

/-- `n` passes of the decode loop. -/
def decodeRecords : Nat → State → State
  | 0, s => s
  | n + 1, s => decodeRecords n (decodeNext s)

/-- The one bulk read of `6 * ALEN` bytes, the decode of `ALEN` records in ascending order, the completion
(R116, R117). -/
def readBurst (s : State) : Out :=
  onAnswer (burstLen s.regs.alen).toNat (askBurst s) fun bs s =>
  .next (completeRead (decodeRecords s.regs.alen.toNat (gotBurst bs s)))

/-- What `READ` does once `CFG` is resolved: one record in Bypass mode (R112), else `min(LEN, CNT)` records
(R113, R114), and no burst at all when that is none (R115). -/
def readSamples (s : State) : Out :=
  if cfgMode s.par s.regs.cfg = .bypass then readBurst (s.setAlen 1)
  else
    onAnswer 1 (askFifoStatus s) fun bs s =>
    let s := gotFifoStatus bs s
    if s.regs.alen = 0 then .next (completeRead s) else readBurst s

/-- `READ h, len` (R111). -/
def execRead (h : Handle) (len : BitVec 16) (s : State) : Out :=
  checked (acceptRead h len s) fun s =>
  resolveSeq s fun s =>
  readSamples s

end Sys2Proof.Machine
end

