-- ==== Sys2Proof/Machine/EventDispatcher.lean ====
section
/-! DEFINITION. EventDispatcher (spec/43_event_dispatcher.md): the priority encoder, the event port, and the
`DISPATCH` operation. -/

namespace Sys2Proof.Machine

/-- The priority encoder (R164): the highest bit that is 1, bit 7 first, bit 0 last; none when the byte is 0. -/
def highestBit (b : Byte) : Option (BitVec 3) :=
  if b.getLsbD 7 then some 7
  else if b.getLsbD 6 then some 6
  else if b.getLsbD 5 then some 5
  else if b.getLsbD 4 then some 4
  else if b.getLsbD 3 then some 3
  else if b.getLsbD 2 then some 2
  else if b.getLsbD 1 then some 1
  else if b.getLsbD 0 then some 0
  else none

/-- `b` with bit `k` cleared. -/
def clearBit (b : Byte) (k : BitVec 3) : Byte := b &&& ~~~(1#8 <<< k.toNat)

/-- The `INT_SOURCE` answer: `SRC <- B[0]`, `PEND <- SRC`, `PHASE <- SCAN` (R161, R163). -/
def gotIntSource (bs : List Byte) (s : State) : State :=
  let s := s.setSrc (firstByte bs)
  (s.setPend s.regs.src).setPhase .scan

/-- `K <- k`, `PHASE <- EMIT`: the event code `K` is presented on the event port (R165). -/
def present (k : BitVec 3) (s : State) : State := (s.setK k).setPhase .emit

/-- The sink takes the presented event: one invocation of `on_event`; then `PEND[K] <- 0`, `PHASE <- SCAN`
(R161, R165, R169). -/
def taken (s : State) : State :=
  let s := (s.log (.event s.regs.k)).setTakes (s.takes - 1)
  (s.setPend (clearBit s.regs.pend s.regs.k)).setPhase .scan

/-- The loop of R161: present the highest pending event, wait until the sink takes it, clear its bit, go on; complete
when none is pending. `n` bounds the passes; nine are always enough, since each clears one bit of eight (R169). -/
def emitPending : Nat → State → State
  | 0, s => s
  | n + 1, s =>
    match highestBit s.regs.pend with
    | none => completeDispatch s
    | some k => if (present k s).takes = 0 then present k s else emitPending n (taken (present k s))

/-- `DISPATCH h` (R161). -/
def execDispatch (h : Handle) (s : State) : Out :=
  checked (acceptDispatch h s) fun s =>
  onAnswer 1 (askIntSource s) fun bs s =>
  .next (emitPending 9 (gotIntSource bs s))

end Sys2Proof.Machine
end

