-- ==== Sys2Proof/Machine/Dispatch.lean ====
section
/-! DEFINITION. One arm for each row of spec/opcode_table.json. -/

namespace Sys2Proof.Machine

def exec (i : Instr) (s : State) : Host.Outcome State Fault Refusal :=
  match i with
  | .resolve h => Sys2Proof.Machine.execResolve h s
  | .read h len => Sys2Proof.Machine.execRead h len s
  | .decode opcfg opb => Sys2Proof.Machine.execDecode opcfg opb s
  | .dispatch h => Sys2Proof.Machine.execDispatch h s

end Sys2Proof.Machine
end

