-- ==== Sys2Proof/WellFormed.lean ====
section
/-! DEFINITION. The commands the assembler syntax of rule R93 can spell. An ill-formed command still decodes and
runs: no command word is illegal (R92). -/

namespace Sys2Proof

/-- A handle operand of R93 is `ok`, `uninit` or `null`: a null handle has `HI` = 0, since `HI` is meaningless
when `HP` = 0 (R82). -/
def Handle.wellFormed (h : Handle) : Bool := h.hp || !h.hi

/-- Every operand is one that R93 can spell; `LEN` and the operands of `DECODE` are unrestricted (R85, R131). -/
def Instr.wellFormed : Instr → Bool
  | .resolve h => h.wellFormed
  | .read h _ => h.wellFormed
  | .decode _ _ => true
  | .dispatch h => h.wellFormed

end Sys2Proof
end

