-- ==== Sys2Proof/Decode.lean ====
section
/-! DEFINITION. The command decoder of spec/30_encoding.md rules R81 to R86, and the encoder of the same table. -/

namespace Sys2Proof

/-- `HP` is bit 55 and `HI` bit 54 (R81). -/
def decodeHandle (w : Command) : Handle := ⟨w.getLsbD 55, w.getLsbD 54⟩

/-- Reads a command word. The top two bits choose the operation and nothing else does (R86); all four values are
defined (R83); reserved and unused bits are ignored (R92). -/
def decode (w : Command) : Instr :=
  match w.getLsbD 63, w.getLsbD 62 with
  | false, false => .resolve (decodeHandle w)
  | false, true => .read (decodeHandle w) (w.extractLsb' 0 16)
  | true, false => .decode (w.extractLsb' 56 6) (w.extractLsb' 0 48)
  | true, true => .dispatch (decodeHandle w)

/-- Why a bit string is no command. -/
inductive DecodeRefusal
  /-- The string is longer than the one 64-bit format (R81, R86); the host offers whole words only (R222). -/
  | longerThanAWord
deriving DecidableEq, Repr

/-- Reads `w` as a string of `nbits` bits, bit 0 least significant, the bits above `nbits` zero. -/
def decodeBits (nbits w : Nat) : Except DecodeRefusal Instr :=
  if nbits ≤ 64 then .ok (decode (BitVec.ofNat 64 w)) else .error .longerThanAWord

/-- What the decoder reads from a row's word, numbered as the opcode table numbers bits. -/
def decodeTableWord (nbits w : Nat) : Option Instr :=
  match decodeBits nbits w with
  | .ok i => some i
  | .error _ => none

/-- Bits 55:54 of the word (R81). -/
def encodeHandle (h : Handle) : BitVec 2 := BitVec.ofBool h.hp ++ BitVec.ofBool h.hi

/-- The word of a command, reserved and unused bits zero (R81, R83, R92, R93). -/
def encode : Instr → Command
  | .resolve h => 0b00#2 ++ 0#6 ++ encodeHandle h ++ 0#6 ++ 0#48
  | .read h len => 0b01#2 ++ 0#6 ++ encodeHandle h ++ 0#6 ++ 0#32 ++ len
  | .decode opcfg opb => 0b10#2 ++ opcfg ++ 0#2 ++ 0#6 ++ opb
  | .dispatch h => 0b11#2 ++ 0#6 ++ encodeHandle h ++ 0#6 ++ 0#48

/-- The mask of every row of the opcode table (R86). -/
def opcodeMask : Command := 0xC000000000000000#64

/-- The match value of each row of the opcode table (R86). -/
def opcodeMatch : Instr → Command
  | .resolve _ => 0x0000000000000000#64
  | .read _ _ => 0x4000000000000000#64
  | .decode _ _ => 0x8000000000000000#64
  | .dispatch _ => 0xC000000000000000#64

/-- The bits of a word that its operation reads, per row of R84, with the operation bits; all others are ignored. -/
def usedBits (w : Command) : Command :=
  match w.getLsbD 63, w.getLsbD 62 with
  | false, false => 0xC0C0000000000000#64
  | false, true => 0xC0C000000000FFFF#64
  | true, false => 0xFF00FFFFFFFFFFFF#64
  | true, true => 0xC0C0000000000000#64

end Sys2Proof
end

