-- ==== Sys2Proof/Machine/Sequencer.lean ====
section
/-! DEFINITION. The sequencer: one transition of the tables R121 and R169 at a time. `tick` is what the block does
between two named points; `settle` lets it run until it is idle or waits for another agent. The meanings of the four
operations are the pseudocode of R103, R111, R131 and R161; that the two agree is the statement
`OperationIsItsTransitions`. -/

namespace Sys2Proof.Machine

/-- Rows `IDLE`: a command at the port is accepted; with none the block stays idle. -/
def tickIdle (s : State) : Out :=
  match s.cmds with
  | [] => .next s
  | w :: rest => .next (accept (decode w) ((s.setCmds rest).latchWord w))

/-- The first request of an operation whose checks have passed. -/
def firstRequest (s : State) : State :=
  match s.par.order with
  | .ctlFirst => askFifoCtl s
  | .fmtFirst => askDataFormat s

/-- Rows `CHK`. -/
def tickChk (s : State) : Out :=
  match s.regs.op with
  | .decode => .fault (.noTransition .chk)
  | .dispatch => checked s fun s => .next (askIntSource s)
  | .resolve => checked s fun s => .next (firstRequest s)
  | .read => checked s fun s => .next (firstRequest s)

/-- The rows that leave the resolver sequence with both answers `ok`. -/
def resolved (p : Phase) (s : State) : Out :=
  match s.regs.op with
  | .resolve => .next (completeResolve s)
  | .read =>
    if cfgMode s.par s.regs.cfg = .bypass then .next (askBurst (s.setAlen 1)) else .next (askFifoStatus s)
  | .decode => .fault (.noTransition p)
  | .dispatch => .fault (.noTransition p)

/-- Rows `RES0`. -/
def tickRes0 (s : State) : Out :=
  onAnswer 1 s fun bs s =>
  match s.par.order with
  | .ctlFirst => .next (askDataFormat (gotFifoCtl bs s))
  | .fmtFirst => resolved .res0 (gotFifoCtl bs s)

/-- Rows `RES1`. -/
def tickRes1 (s : State) : Out :=
  onAnswer 1 s fun bs s =>
  match s.par.order with
  | .ctlFirst => resolved .res1 (gotDataFormat bs s)
  | .fmtFirst => .next (askFifoCtl (gotDataFormat bs s))

/-- Rows `STAT`. -/
def tickStat (s : State) : Out :=
  match s.regs.op with
  | .read =>
    onAnswer 1 s fun bs s =>
    let s := gotFifoStatus bs s
    if s.regs.alen = 0 then .next (completeRead s) else .next (askBurst s)
  | .resolve => .fault (.noTransition .stat)
  | .decode => .fault (.noTransition .stat)
  | .dispatch => .fault (.noTransition .stat)

/-- Rows `BURST`. -/
def tickBurst (s : State) : Out :=
  match s.regs.op with
  | .read => onAnswer (burstLen s.regs.alen).toNat s fun bs s => .next (gotBurst bs s)
  | .resolve => .fault (.noTransition .burst)
  | .decode => .fault (.noTransition .burst)
  | .dispatch => .fault (.noTransition .burst)

/-- Rows `DEC`. -/
def tickDec (s : State) : Out :=
  match s.regs.op with
  | .decode => .next (decodeOperand s)
  | .read =>
    if s.regs.idx.toNat + 1 < s.regs.alen.toNat then .next (decodeNext s)
    else if s.regs.idx.toNat + 1 = s.regs.alen.toNat then .next (completeRead (decodeInto s.regs.idx.toNat s))
    else .fault (.noTransition .dec)
  | .resolve => .fault (.noTransition .dec)
  | .dispatch => .fault (.noTransition .dec)

/-- Rows `SRCRD`. -/
def tickSrcrd (s : State) : Out :=
  match s.regs.op with
  | .dispatch => onAnswer 1 s fun bs s => .next (gotIntSource bs s)
  | .resolve => .fault (.noTransition .srcrd)
  | .read => .fault (.noTransition .srcrd)
  | .decode => .fault (.noTransition .srcrd)

/-- Rows `SCAN`. -/
def tickScan (s : State) : Out :=
  match s.regs.op with
  | .dispatch =>
    match highestBit s.regs.pend with
    | none => .next (completeDispatch s)
    | some k => .next (present k s)
  | .resolve => .fault (.noTransition .scan)
  | .read => .fault (.noTransition .scan)
  | .decode => .fault (.noTransition .scan)

/-- Rows `EMIT`. -/
def tickEmit (s : State) : Out :=
  match s.regs.op with
  | .dispatch => if s.takes = 0 then .next s else .next (taken s)
  | .resolve => .fault (.noTransition .emit)
  | .read => .fault (.noTransition .emit)
  | .decode => .fault (.noTransition .emit)

/-- One transition of the sequencer; the reset input comes before every row (R210). -/
def tick (s : State) : Out :=
  if s.rst then .next s.applyReset
  else
    match s.phase with
    | .idle => tickIdle s
    | .chk => tickChk s
    | .res0 => tickRes0 s
    | .res1 => tickRes1 s
    | .stat => tickStat s
    | .burst => tickBurst s
    | .dec => tickDec s
    | .srcrd => tickSrcrd s
    | .scan => tickScan s
    | .emit => tickEmit s

/-- The block can do nothing by itself: it is idle, or it waits for an answer that has not come, or for the sink.
These are the six waiting phases of R225. -/
def State.waiting (s : State) : Bool :=
  match s.phase with
  | .idle => true
  | .res0 => s.answers.isEmpty
  | .res1 => s.answers.isEmpty
  | .stat => s.answers.isEmpty
  | .burst => s.answers.isEmpty
  | .srcrd => s.answers.isEmpty
  | .emit => s.takes == 0
  | .chk => false
  | .dec => false
  | .scan => false

/-- Transitions until the block waits or is idle, at most `n` of them. -/
def settle : Nat → State → Out
  | 0, s => .next s
  | n + 1, s =>
    if s.waiting then .next s
    else
      match tick s with
      | .next t => settle n t
      | .fault r => .fault r
      | .refused r => .refused r

/-- More transitions than any operation makes: 1 for the checks, 4 for the requests, 63 records (R121), or 1, 1, 9
scans and 8 events (R169). -/
def settleBound : Nat := 80

end Sys2Proof.Machine
end

