-- ==== Sys2Proof/Machine/Step.lean ====
section
/-! DEFINITION. One step: everything the block does until it is idle or waits for another agent (assumption 4). -/

namespace Sys2Proof.Machine

/-- The reset input comes first (R210). An idle block accepts the command at its port: its
fields are latched and the operation runs (R80), or it stays idle. In any other phase the command port is not looked at (R80) and the operation in progress goes on. -/
def step (s : State) : Host.Outcome State Fault Refusal :=
  if s.rst then .next s.applyReset
  else
    match s.phase with
    | .idle =>
      match s.cmds with
      | [] => .next s
      | w :: rest => exec (decode w) ((s.setCmds rest).latchWord w)
    | .chk => settle settleBound s
    | .res0 => settle settleBound s
    | .res1 => settle settleBound s
    | .stat => settle settleBound s
    | .burst => settle settleBound s
    | .dec => settle settleBound s
    | .srcrd => settle settleBound s
    | .scan => settle settleBound s
    | .emit => settle settleBound s

/-- The host's word stands at the command port of an idle block whose reset input is not asserted, before every word
already offered: what `step` needs to accept exactly it (assumption 3). -/
def State.withFetchWord (s : State) (nbits w : Nat) : State :=
  { s with phase := .idle, rst := false, cmds := BitVec.ofNat 64 (w % 2 ^ nbits) :: s.cmds }

end Sys2Proof.Machine
end

