-- ==== Sys2Proof/Machine/Assembler.lean ====
section
/-! DEFINITION. The assembler syntax of spec/30_encoding.md rule R93: a line as data, the command it stands for, and
its spelling. There are no pseudo-instructions: every line is one command word. -/

namespace Sys2Proof.Machine

/-- The operand `h` of R93. -/
inductive HandleName
  | ok
  | uninit
  | null
deriving DecidableEq, Repr

/-- The operand `cfg` of R93, `MODE/FR/JUST/RANGE`. -/
structure CfgName where
  mode : Mode
  full : Bool
  just : Justify
  range : Range
deriving DecidableEq, Repr

/-- One line of R93. -/
inductive AsmLine
  | resolve (h : HandleName)
  | read (h : HandleName) (len : BitVec 16)
  | decode (cfg : CfgName) (b : Six)
  | dispatch (h : HandleName)
deriving DecidableEq, Repr

/-- The two handle bits a name stands for (R93). -/
def HandleName.handle : HandleName → Handle
  | .ok => ⟨true, true⟩
  | .uninit => ⟨true, false⟩
  | .null => ⟨false, false⟩

/-- The two-bit value that stands for `x`. -/
def codeOf {α : Type} [DecidableEq α] (t : Code4 α) (x : α) : BitVec 2 :=
  if t.c0 = x then 0 else if t.c1 = x then 1 else if t.c2 = x then 2 else 3

/-- The packed `CFG` a name stands for (R25, R35, R36). -/
def CfgName.word (p : Params) (c : CfgName) : CfgWord :=
  codeOf p.encMode c.mode ++ BitVec.ofBool (c.full == p.frTrue) ++
    BitVec.ofBool (decide (c.just = .left) == p.justLeft) ++ codeOf p.encRange c.range

/-- `OPB = {b[5], b[4], b[3], b[2], b[1], b[0]}` (R85). -/
def opbOf (b : Six) : BitVec 48 := b.b5 ++ b.b4 ++ b.b3 ++ b.b2 ++ b.b1 ++ b.b0

/-- The command a line stands for. -/
def AsmLine.instr (p : Params) : AsmLine → Instr
  | .resolve h => .resolve h.handle
  | .read h len => .read h.handle len
  | .decode cfg b => .decode (cfg.word p) (opbOf b)
  | .dispatch h => .dispatch h.handle

/-- The spelling of a handle. -/
def HandleName.text : HandleName → String
  | .ok => "ok"
  | .uninit => "uninit"
  | .null => "null"

/-- The spelling of a mode (R35). -/
def modeText : Mode → String
  | .bypass => "Bypass"
  | .fifo => "Fifo"
  | .stream => "Stream"
  | .trigger => "Trigger"

/-- The spelling of a range (R36). -/
def rangeText : Range → String
  | .g2 => "G2"
  | .g4 => "G4"
  | .g8 => "G8"
  | .g16 => "G16"

/-- The spelling of a justification (R36). -/
def justText : Justify → String
  | .right => "Right"
  | .left => "Left"

/-- The spelling of a configuration, for example `Fifo/full/Left/G16` (R93). -/
def CfgName.text (c : CfgName) : String :=
  modeText c.mode ++ "/" ++ (if c.full then "full" else "10bit") ++ "/" ++ justText c.just ++ "/" ++ rangeText c.range

/-- One hexadecimal digit. -/
def hexDigit (n : Nat) : String :=
  match n with
  | 10 => "A"
  | 11 => "B"
  | 12 => "C"
  | 13 => "D"
  | 14 => "E"
  | 15 => "F"
  | n => toString n

/-- A byte as two hexadecimal digits. -/
def byteText (b : Byte) : String := hexDigit (b.toNat / 16) ++ hexDigit (b.toNat % 16)

/-- The spelling of a line (R93). -/
def AsmLine.text : AsmLine → String
  | .resolve h => "RESOLVE " ++ h.text
  | .read h len => "READ " ++ h.text ++ ", " ++ toString len.toNat
  | .decode cfg b =>
    "DECODE " ++ cfg.text ++ ", " ++ byteText b.b0 ++ " " ++ byteText b.b1 ++ " " ++ byteText b.b2 ++ " " ++
      byteText b.b3 ++ " " ++ byteText b.b4 ++ " " ++ byteText b.b5
  | .dispatch h => "DISPATCH " ++ h.text

end Sys2Proof.Machine
end

