-- ==== Sys2Proof/Safety.lean ====
section
/-! DEFINITION. The terms claims are made in: what stands at the ports, what has passed at them, when a state is one
the block can be in, and the rational value of a binary32 pattern. -/

namespace Sys2Proof.Machine

/-! ## What stands at the ports -/

/-- The command port accepts (R80). -/
def State.ready (s : State) : Bool := s.phase = .idle

/-- The request outstanding at the transport port: at most one, named by the phase (R23, R61). -/
def State.requestPort (s : State) : Option Request :=
  match s.phase with
  | .res0 => some (reqFifoCtl s.par)
  | .res1 => some (reqDataFormat s.par)
  | .stat => some (reqFifoStatus s.par)
  | .burst => some (reqBurst s.par s.regs.alen)
  | .srcrd => some (reqIntSource s.par)
  | .idle => none
  | .chk => none
  | .dec => none
  | .scan => none
  | .emit => none

/-- The event code presented to the sink (R165). -/
def State.eventPort (s : State) : Option (BitVec 3) := if s.phase = .emit then some s.regs.k else none

/-! ## What has passed at the ports -/

/-- The requests in a trace. -/
def requestsIn (l : List PortItem) : List Request :=
  l.filterMap fun x => match x with | .request r => some r | .event _ => none | .completion _ => none

/-- The events in a trace. -/
def eventsIn (l : List PortItem) : List (BitVec 3) :=
  l.filterMap fun x => match x with | .request _ => none | .event k => some k | .completion _ => none

/-- The completions in a trace. -/
def completionsIn (l : List PortItem) : List Completion :=
  l.filterMap fun x => match x with | .request _ => none | .event _ => none | .completion c => some c

/-- What passed at the ports between `s` and a later state `t`. -/
def passed (s t : State) : List PortItem := t.trace.drop s.trace.length

/-- `s` after an operation has ended: `items` have passed at its ports, the transport has the answers `as` left and
the sink takes `n` more events, the block is idle and its registers hold no value (R45); all else is as in `s`. -/
def ended (s : State) (items : List PortItem) (as : List Answer) (n : Nat) : State :=
  { s with phase := .idle, regs := deadRegs s.draws, draws := s.draws + 1, trace := s.trace ++ items,
           answers := as, takes := n }

/-- The completion of a failed operation: `STATUS` and nothing else (R186). -/
def errorItem (e : ErrorKind) : PortItem := .completion ⟨e.status, none, none, []⟩

/-- `CFG` as the two resolver bytes give it: `{c[7:6], f[3:0]}` (R102). -/
def cfgOf (c f : Byte) : CfgWord := c.extractLsb' 6 2 ++ f.extractLsb' 0 4

/-- The two resolver requests in the order `RESOLVE_ORDER` gives (D7). -/
def resolverRequests (p : Params) : List PortItem :=
  match p.order with
  | .ctlFirst => [.request (reqFifoCtl p), .request (reqDataFormat p)]
  | .fmtFirst => [.request (reqDataFormat p), .request (reqFifoCtl p)]

/-- The two resolver answers, `c` for `FIFO_CTL` and `f` for `DATA_FORMAT`, in that same order. -/
def resolverAnswers (p : Params) (c f : Byte) : List Answer :=
  match p.order with
  | .ctlFirst => [.ok [c], .ok [f]]
  | .fmtFirst => [.ok [f], .ok [c]]

/-- The events of an `INT_SOURCE` byte by the plain scan of R164: bit positions from 7 down to 0. -/
def eventsOf (b : Byte) : List (BitVec 3) :=
  [7, 6, 5, 4, 3, 2, 1, 0].filter fun k => b.getLsbD k.toNat

/-! ## The states the block can be in -/

/-- The parameters are ones the spec allows: distinct addresses, and a bijection for each field (U11). -/
def paramsWf (p : Params) : Bool :=
  decide [p.addrIntSource, p.addrDataFormat, p.addrDataX0, p.addrFifoCtl, p.addrFifoStatus, p.addrBwRate].Nodup
    && decide [p.encMode.c0, p.encMode.c1, p.encMode.c2, p.encMode.c3].Nodup
    && decide [p.encRange.c0, p.encRange.c1, p.encRange.c2, p.encRange.c3].Nodup

/-- The checks of a `READ` have passed (R184). -/
def readChecked (r : Regs) : Prop := r.op = .read ∧ r.hp = true ∧ r.hi = true ∧ r.len ≠ 0

/-- The checks of a `DISPATCH` have passed. -/
def dispatchChecked (r : Regs) : Prop := r.op = .dispatch ∧ r.hp = true ∧ r.hi = true

/-- A resolver read is outstanding: a `RESOLVE` or a `READ` whose checks have passed. -/
def resolverChecked (r : Regs) : Prop := (r.op = .resolve ∧ r.hp = true ∧ r.hi = true) ∨ readChecked r

/-- A `READ` knows how many records to fetch: one in Bypass mode (R112), else `min(LEN, CNT)`, not none
(R114, R115). -/
def batchKnown (p : Params) (r : Regs) : Prop :=
  readChecked r ∧ r.alen ≠ 0 ∧
    (cfgMode p r.cfg = .bypass → r.alen = 1) ∧
    (cfgMode p r.cfg ≠ .bypass → r.alen = actualLen r.len r.cnt)

/-- The events still pending are events of the byte read (R163). -/
def pendOfSrc (r : Regs) : Prop := r.pend &&& r.src = r.pend

/-- What the registers hold in each phase of an operation, by the transition tables R121 and R169. -/
def SeqInv (s : State) : Prop :=
  match s.phase with
  | .idle => True
  | .chk => s.regs.op ≠ .decode
  | .res0 => resolverChecked s.regs
  | .res1 => resolverChecked s.regs
  | .stat => readChecked s.regs ∧ cfgMode s.par s.regs.cfg ≠ .bypass
  | .burst => batchKnown s.par s.regs
  | .dec => s.regs.op = .decode ∨ (batchKnown s.par s.regs ∧ s.regs.idx.toNat < s.regs.alen.toNat)
  | .srcrd => dispatchChecked s.regs
  | .scan => dispatchChecked s.regs ∧ pendOfSrc s.regs
  | .emit => dispatchChecked s.regs ∧ pendOfSrc s.regs ∧ highestBit s.regs.pend = some s.regs.k

/-- The outstanding request is the last thing that passed at the ports (R61). -/
def RequestStands (s : State) : Prop :=
  ∀ r, s.requestPort = some r → s.trace.getLast? = some (.request r)

/-- What the other agents see of an operation: what passed at the ports, the answers and takes left, and whether
the block is idle or where it waits; or why the step stopped. -/
inductive Seen
  | went (items : List PortItem) (answers : List Answer) (takes : Nat) (phase : Phase)
  | faulted (r : Fault)
  | refused (r : Refusal)
deriving DecidableEq, Repr

/-- What the other agents see of a step from `s`. -/
def seen (s : State) : Out → Seen
  | .next t => .went (passed s t) t.answers t.takes t.phase
  | .fault r => .faulted r
  | .refused r => .refused r

/-! ## Latch registers an operation does not read -/

/-- `s` with the latch registers that the latched operation does not read (the table of R84) blanked, so that two
states that differ in nothing else are equal here. -/
def State.forgetUnread (s : State) : State :=
  { s with regs :=
    match s.regs.op with
    | .resolve => { s.regs with len := 0, opb := 0, opcfg := 0 }
    | .read => { s.regs with opb := 0, opcfg := 0 }
    | .decode => { s.regs with hp := false, hi := false, len := 0 }
    | .dispatch => { s.regs with len := 0, opb := 0, opcfg := 0 } }

/-- An outcome with its next state, if there is one, changed by `f`. -/
def onNext (f : State → State) : Out → Out
  | .next t => .next (f t)
  | .fault r => .fault r
  | .refused r => .refused r

/-! ## Binary32 values -/

/-- The rational value of a finite binary32 pattern. -/
def f32Value (a : F32) : ℚ := (if f32Neg a then -1 else 1) * (units32 (f32Mag a) : ℚ) / 2 ^ 149

/-- The rational value of a decimal. -/
def decimalValue (c : Decimal) : ℚ := (c.mant.val : ℚ) / 10 ^ c.places.val

/-- A finite pattern. -/
def f32Finite (a : F32) : Bool := f32Mag a < inf32

end Sys2Proof.Machine
end

