-- ==== Sys2Proof/Certificates/Slice0/Obligations.lean ====
section
/-! DEFINITION. The statements for the provers. `ended s items as n` is `s` after an operation has ended: `items` have
passed at the ports, `as` and `n` are what the transport and the sink have left, the block is idle, its registers hold
no value, and everything else is as in `s`. A statement over every `s` is a statement over every value of the
parameters `s.par` and of every free value. -/

open Sys2Proof Sys2Proof.Machine

/-! ## Encoding -/

/-- The command words of 95_test_vectors.md (V1, V10, V18, V30, V36, V37, V40, V54, V66, V67, V70), read bit by bit
from R81, decode to the commands they stand for. -/
def Obligations.DecoderReadsHandWrittenWords : Prop :=
  decode 0x8000006400640064 = .decode 0b000000 0x006400640064 ∧
  decode 0x9C008000E7001900 = .decode 0b011100 0x8000E7001900 ∧
  decode 0xA70080401900FFC0 = .decode 0b100111 0x80401900FFC0 ∧
  decode 0x00C0000000000000 = .resolve ⟨true, true⟩ ∧
  decode 0x0080000000000000 = .resolve ⟨true, false⟩ ∧
  decode 0x0000000000000000 = .resolve ⟨false, false⟩ ∧
  decode 0x40C0000000000007 = .read ⟨true, true⟩ 7 ∧
  decode 0x4080000000000000 = .read ⟨true, false⟩ 0 ∧
  decode 0x7FFFFFFFFFFF0005 = .read ⟨true, true⟩ 5 ∧
  decode 0x403F000000000005 = .read ⟨false, false⟩ 5 ∧
  decode 0xC000000000000000 = .dispatch ⟨false, false⟩ ∧
  decode 0xC080000000000000 = .dispatch ⟨true, false⟩ ∧
  decode 0xFFFFFFFFFFFFFFFF = .dispatch ⟨true, true⟩

/-- Every command, with every value of every operand, is read back from its own word. -/
def Obligations.DecodeOfEncodeIsTheCommand : Prop :=
  ∀ i : Instr, decode (encode i) = i ∧ decodeTableWord 64 (encode i).toNat = some i

/-- Every word is some command's, and encoding what was decoded gives the word back with the bits its operation does
not read (R84) and the reserved bits cleared. -/
def Obligations.EncodeOfDecodeClearsUnusedBits : Prop :=
  ∀ w : Command, encode (decode w) = w &&& usedBits w

/-- R92: no command word is illegal, and the bits an operation does not read change neither the requests, nor the
events, nor the completion. Two words that differ in those bits alone give outcomes that agree in everything but
the latch registers the operation does not read; and two states that differ in such registers alone go on agreeing
at every later step, until the completion and after it. -/
def Obligations.UnusedBitsAreIgnored : Prop :=
  (∀ w : Command, decodeTableWord 64 w.toNat = some (decode w)) ∧
  (∀ (s : State) (w w' : Command) (rest : List Command),
    s.rst = false → s.phase = .idle → w &&& usedBits w = w' &&& usedBits w' →
    onNext State.forgetUnread (step { s with cmds := w :: rest }) =
      onNext State.forgetUnread (step { s with cmds := w' :: rest })) ∧
  ∀ s s' : State, s.forgetUnread = s'.forgetUnread →
    onNext State.forgetUnread (step s) = onNext State.forgetUnread (step s')

/-- From R93: under parameters the spec allows, every well-formed command is the command of exactly one assembler line,
and every line's command is well-formed. -/
def Obligations.AssemblerLinesAreTheWellFormedCommands : Prop :=
  ∀ p : Params, paramsWf p = true →
    (∀ l : AsmLine, (l.instr p).wellFormed = true) ∧
    ∀ i : Instr, i.wellFormed = true → ∃ l : AsmLine, l.instr p = i ∧ ∀ l' : AsmLine, l'.instr p = i → l' = l

/-- R91: the event code is the bit position in `INT_SOURCE`, for each of the eight events. -/
def Obligations.EventCodesAreBitPositions : Prop :=
  ∀ b : Byte,
    (Event.dataReady.code = 7 ∧ intSourceBit b .dataReady = b.getLsbD 7) ∧
    (Event.singleTap.code = 6 ∧ intSourceBit b .singleTap = b.getLsbD 6) ∧
    (Event.doubleTap.code = 5 ∧ intSourceBit b .doubleTap = b.getLsbD 5) ∧
    (Event.activity.code = 4 ∧ intSourceBit b .activity = b.getLsbD 4) ∧
    (Event.inactivity.code = 3 ∧ intSourceBit b .inactivity = b.getLsbD 3) ∧
    (Event.freeFall.code = 2 ∧ intSourceBit b .freeFall = b.getLsbD 2) ∧
    (Event.watermark.code = 1 ∧ intSourceBit b .watermark = b.getLsbD 1) ∧
    (Event.overrun.code = 0 ∧ intSourceBit b .overrun = b.getLsbD 0)

/-- R88, R89: the header's fields; a field that is not valid holds any bits, those of `fill`. -/
def Obligations.CompletionHeaderLayout : Prop :=
  ∀ (c : Completion) (fill : BitVec 12),
    (c.header fill).extractLsb' 13 3 =
      (match c.status with
        | .ok => 0#3 | .transportError => 1#3 | .nullHandle => 2#3 | .notInitialized => 3#3 | .lengthZero => 4#3) ∧
    (c.header fill).getLsbD 12 = false ∧
    (∀ n, c.alen = some n → (c.header fill).extractLsb' 6 6 = n) ∧
    (c.alen = none → (c.header fill).extractLsb' 6 6 = fill.extractLsb' 6 6) ∧
    (∀ g, c.cfg = some g → (c.header fill).extractLsb' 0 6 = g) ∧
    (c.cfg = none → (c.header fill).extractLsb' 0 6 = fill.extractLsb' 0 6)

/-- R90: the nine fields of a packed record. -/
def Obligations.RecordLayout : Prop :=
  ∀ r : Record,
    r.pack.extractLsb' 0 16 = r.raw.x ∧ r.pack.extractLsb' 16 16 = r.raw.y ∧ r.pack.extractLsb' 32 16 = r.raw.z ∧
    r.pack.extractLsb' 48 16 = r.cor.x ∧ r.pack.extractLsb' 64 16 = r.cor.y ∧ r.pack.extractLsb' 80 16 = r.cor.z ∧
    r.pack.extractLsb' 96 32 = r.g.x ∧ r.pack.extractLsb' 128 32 = r.g.y ∧ r.pack.extractLsb' 160 32 = r.g.z

/-! ## The step -/

/-- An idle block whose reset input is not asserted runs the command at its port, which leaves the port, with the word's
fields latched (R80, R24; assumption 16); a word placed by `withFetchWord` is that command, whatever the state was. -/
def Obligations.StepRunsTheDecodedCommand : Prop :=
  (∀ (s : State) (w : Command) (rest : List Command) (i : Instr),
    s.rst = false → s.phase = .idle → s.cmds = w :: rest → decode w = i →
    step s = exec i (State.latchWord w { s with cmds := rest })) ∧
  ∀ (s : State) (w : Command),
    step (s.withFetchWord 64 w.toNat) = exec (decode w) (State.latchWord w { s with phase := .idle, rst := false })

/-- Acceptance writes the whole command latch from the word (from R24, R81) and nothing else but the phase. The phase is
`CHK`, except that an accepted `DECODE` goes to `DEC` at once (R169), which is the model's reading of R80 against R131
and R169 (assumption 6, DEDUCED); that the latch registers an operation does not read take their bits of R81 too is
assumption 16. The frame of acceptance, one transition of the sequencer. -/
def Obligations.AcceptanceLatchesFields : Prop :=
  ∀ (s : State) (w : Command) (rest : List Command),
    s.rst = false → s.phase = .idle → s.cmds = w :: rest →
    tick s = .next { s with
      cmds := rest
      phase := match w.getLsbD 63, w.getLsbD 62 with
        | false, false => .chk
        | false, true => .chk
        | true, false => .dec
        | true, true => .chk
      regs := { s.regs with
        op := match w.getLsbD 63, w.getLsbD 62 with
          | false, false => .resolve
          | false, true => .read
          | true, false => .decode
          | true, true => .dispatch
        hp := w.getLsbD 55
        hi := w.getLsbD 54
        len := w.extractLsb' 0 16
        opb := w.extractLsb' 0 48
        opcfg := w.extractLsb' 56 6 } }

/-- While an operation is in progress the words at the command port change nothing, and stay (R80, R193). -/
def Obligations.BusyBlockIgnoresTheCommandPort : Prop :=
  ∀ (s : State) (ws : List Command), s.rst = false → s.phase ≠ .idle →
    step { s with cmds := ws } =
      match step s with
      | .next t => .next { t with cmds := ws }
      | .fault r => .fault r
      | .refused r => .refused r

/-- Hangs (70_reset_and_hazards.md section 3): with its input missing the block waits for ever, in each of six phases
(R67); every step ends idle or in one of those six with its input missing; and what one command does without waiting
makes at most 4 requests and 8 events. -/
def Obligations.HangsOnlyInSixPhases : Prop :=
  (∀ s : State, s.rst = false →
    (s.phase = .res0 ∨ s.phase = .res1 ∨ s.phase = .stat ∨ s.phase = .burst ∨ s.phase = .srcrd) ∧ s.answers = [] ∨
      (s.phase = .emit ∧ s.takes = 0) →
    step s = .next s) ∧
  (∀ s t : State, step s = .next t →
    t.phase = .idle ∨
    (t.phase = .res0 ∨ t.phase = .res1 ∨ t.phase = .stat ∨ t.phase = .burst ∨ t.phase = .srcrd) ∧ t.answers = [] ∨
    (t.phase = .emit ∧ t.takes = 0)) ∧
  (∀ (i : Instr) (s t : State), exec i s = .next t →
    (requestsIn (passed s t)).length ≤ 4 ∧ (eventsIn (passed s t)).length ≤ 8)

/-- Headline: for every command and every state, the operation's pseudocode (R103, R111, R131, R161) is what the
transition tables R121 and R169 give when they run, from acceptance, until the block is idle or waits. -/
def Obligations.OperationIsItsTransitions : Prop :=
  ∀ (i : Instr) (s : State), s.rst = false → settle settleBound (accept i s) = exec i s

/-- Every accepted command is answered by exactly one completion, after which `PHASE` = `IDLE` (R80): an operation has
given one exactly when the block is idle again, and otherwise it waits and a later step gives it. -/
def Obligations.OneCompletionForEachCommand : Prop :=
  (∀ (i : Instr) (s t : State), exec i s = .next t →
    (t.phase = .idle ∧ (completionsIn (passed s t)).length = 1) ∨
    (t.phase ≠ .idle ∧ completionsIn (passed s t) = [])) ∧
  (∀ s t : State, s.rst = false → s.phase ≠ .idle → step s = .next t →
    (t.phase = .idle ∧ (completionsIn (passed s t)).length = 1) ∨
    (t.phase ≠ .idle ∧ completionsIn (passed s t) = []))

/-- No state between operations (from R19, R20): what passes at the ports in an operation depends on the command, the
parameters and the inputs alone, not on what any register or the phase held before. -/
def Obligations.NothingIsCarriedIntoAnOperation : Prop :=
  ∀ (i : Instr) (s s' : State),
    s.par = s'.par → s.answers = s'.answers → s.takes = s'.takes →
    seen s (exec i s) = seen s' (exec i s')

/-- The frame of every step: the parameters stay, what has passed at the ports stays, and inputs are only consumed,
in order. -/
def Obligations.StepOnlyConsumesInputs : Prop :=
  ∀ s t : State, step s = .next t →
    t.par = s.par ∧ s.trace <+: t.trace ∧ t.answers <:+ s.answers ∧ t.takes ≤ s.takes ∧ t.cmds <:+ s.cmds ∧
    t.rst = false

/-- Where the model stops (R223, 93_implementation_defined.md U3; the refusal is assumption 9): a step is refused only
when the transport breaks its duty with an `ok` answer whose length is not the number of bytes asked, and then, in a
state that meets the invariant, it is. -/
def Obligations.MalformedAnswersAreRefused : Prop :=
  (∀ (s : State) (r : Refusal), step s = .refused r →
    ∃ asked bs, r = .answerLength asked bs.length ∧ .ok bs ∈ s.answers ∧ bs.length ≠ asked) ∧
  ∀ (s : State) (q : Request) (bs : List Byte) (as : List Answer),
    SeqInv s → s.rst = false → s.requestPort = some q → s.answers = .ok bs :: as → bs.length ≠ q.n.toNat →
    step s = .refused (.answerLength q.n.toNat bs.length)

/-! ## Reset -/

/-- After reset the block is idle, nothing is outstanding, presented, offered or has passed, and the parameters are
the spec's (R45, R210). -/
def Obligations.ResetStateIsIdle : Prop :=
  State.reset.phase = .idle ∧ State.reset.requestPort = none ∧ State.reset.eventPort = none ∧
  State.reset.trace = [] ∧ State.reset.cmds = [] ∧ State.reset.answers = [] ∧ State.reset.takes = 0 ∧
  State.reset.par = specParams

/-- From R211: reset abandons the operation in progress, in every phase: no completion is given for it, no further
request or event of it is made, and what has already passed at the ports stays. The registers then hold no value
(R45). -/
def Obligations.ResetAbandonsTheOperation : Prop :=
  ∀ s : State, s.rst = true →
    step s = .next { s with phase := .idle, regs := deadRegs s.draws, draws := s.draws + 1, rst := false } ∧
    tick s = step s ∧
    ∀ t, step s = .next t → t.trace = s.trace ∧ t.requestPort = none ∧ t.eventPort = none

/-! ## Invariants -/

/-- The invariant of the registers holds after reset. -/
def Obligations.InvariantHoldsAtReset : Prop := SeqInv State.reset ∧ RequestStands State.reset

/-- Headline: from every state that meets it, every step and every single transition keeps the invariant of R121 and
R169: what the latched command, `CFG`, `ALEN`, `IDX`, `PEND` and `K` hold in each phase. -/
def Obligations.StepKeepsInvariant : Prop :=
  ∀ s t : State, SeqInv s → (step s = .next t → SeqInv t) ∧ (tick s = .next t → SeqInv t)

/-- In a state that meets the invariant no step and no transition faults: the transition tables cover it. -/
def Obligations.SafeStateNeverFaults : Prop :=
  ∀ s : State, SeqInv s → (∀ r, step s ≠ .fault r) ∧ ∀ r, tick s ≠ .fault r

/-- While a request is outstanding it is the last thing that passed at the ports: at most one request is outstanding
and the block issues nothing while it waits (R61). -/
def Obligations.OutstandingRequestIsTheLast : Prop :=
  ∀ s t : State, RequestStands s → step s = .next t → RequestStands t

/-! ## Requests -/

/-- From R53: the block never writes, every request that passes in a step being a read; and from R39, under the distinct
addresses that U11 allows, it never accesses `BW_RATE`. -/
def Obligations.BlockNeverWritesNorReadsTheRate : Prop :=
  ∀ s t : State, step s = .next t → ∀ r ∈ requestsIn (passed s t),
    r.dir = .read ∧ (paramsWf s.par = true → r.addr ≠ s.par.addrBwRate)

/-- From R52 and R59: from a state that meets the invariant every request that passes is one of the five, and its
length is 1 byte, or 6 to 378 bytes in steps of 6 at `ADDR_DATAX0`. -/
def Obligations.OnlyTheFiveRequests : Prop :=
  ∀ s t : State, SeqInv s → step s = .next t → ∀ r ∈ requestsIn (passed s t),
    r = reqFifoCtl s.par ∨ r = reqDataFormat s.par ∨ r = reqFifoStatus s.par ∨ r = reqIntSource s.par ∨
    ∃ k : Nat, 1 ≤ k ∧ k ≤ 63 ∧ r = ⟨.read, s.par.addrDataX0, BitVec.ofNat 16 (6 * k)⟩

/-- From R61 and R62: the requests of an operation, in the default order of the two resolver reads, are a prefix of the
sequence its rule gives; `DECODE` makes none. -/
def Obligations.RequestsAreAPrefixOfTheRule : Prop :=
  ∀ s t : State, s.par.order = .ctlFirst →
    (∀ h, exec (.resolve h) s = .next t →
      requestsIn (passed s t) <+: [reqFifoCtl s.par, reqDataFormat s.par]) ∧
    (∀ h len, exec (.read h len) s = .next t →
      requestsIn (passed s t) <+: [reqFifoCtl s.par, reqDataFormat s.par, reqBurst s.par 1] ∨
      ∃ n : BitVec 6, requestsIn (passed s t) <+:
        [reqFifoCtl s.par, reqDataFormat s.par, reqFifoStatus s.par, reqBurst s.par n]) ∧
    (∀ cfg opb, exec (.decode cfg opb) s = .next t → requestsIn (passed s t) = []) ∧
    (∀ h, exec (.dispatch h) s = .next t → requestsIn (passed s t) <+: [reqIntSource s.par])

/-! ## Errors -/

/-- From R182, R183, R185, R120 and the order of R184: a null handle, then a handle that is not initialized, then for
`READ` a length of zero, each before any transport request and any event, whatever the device's mode; their codes;
and no other command ends with one of the three. That the length is tested after the handle and before the first
request is the spec's own choice (R184, R120, D6). -/
def Obligations.ArgumentsAreCheckedFirst : Prop :=
  (∀ (s : State) (len : BitVec 16) (hi : Bool),
    exec (.resolve ⟨false, hi⟩) s = .next (ended s [errorItem .nullHandle] s.answers s.takes) ∧
    exec (.read ⟨false, hi⟩ len) s = .next (ended s [errorItem .nullHandle] s.answers s.takes) ∧
    exec (.dispatch ⟨false, hi⟩) s = .next (ended s [errorItem .nullHandle] s.answers s.takes) ∧
    exec (.resolve ⟨true, false⟩) s = .next (ended s [errorItem .notInitialized] s.answers s.takes) ∧
    exec (.read ⟨true, false⟩ len) s = .next (ended s [errorItem .notInitialized] s.answers s.takes) ∧
    exec (.dispatch ⟨true, false⟩) s = .next (ended s [errorItem .notInitialized] s.answers s.takes) ∧
    exec (.read ⟨true, true⟩ 0) s = .next (ended s [errorItem .lengthZero] s.answers s.takes)) ∧
  ErrorKind.nullHandle.status.code = 2 ∧ ErrorKind.notInitialized.status.code = 3 ∧
  ErrorKind.lengthZero.status.code = 4 ∧
  ∀ (i : Instr) (s t : State), exec i s = .next t → ∀ c ∈ completionsIn (passed s t),
    (c.status = .nullHandle →
      ∃ hi, i = .resolve ⟨false, hi⟩ ∨ (∃ len, i = .read ⟨false, hi⟩ len) ∨ i = .dispatch ⟨false, hi⟩) ∧
    (c.status = .notInitialized →
      i = .resolve ⟨true, false⟩ ∨ (∃ len, i = .read ⟨true, false⟩ len) ∨ i = .dispatch ⟨true, false⟩) ∧
    (c.status = .lengthZero → i = .read ⟨true, true⟩ 0)

/-- From R66 and R181: the first `fail` ends the operation with `TransportError`, and no later request is made: at each
of the requests a `READ` makes, in either order of the resolver reads and in either mode. -/
def Obligations.ReadStopsAtTheFirstFailure : Prop :=
  ∀ (s : State) (len : BitVec 16) (c f q : Byte) (as : List Answer), len ≠ 0 →
    (s.answers = .fail :: as →
      exec (.read ⟨true, true⟩ len) s =
        .next (ended s ((resolverRequests s.par).take 1 ++ [errorItem .transportError]) as s.takes)) ∧
    (s.answers = (resolverAnswers s.par c f).take 1 ++ .fail :: as →
      exec (.read ⟨true, true⟩ len) s =
        .next (ended s (resolverRequests s.par ++ [errorItem .transportError]) as s.takes)) ∧
    (cfgMode s.par (cfgOf c f) = .bypass → s.answers = resolverAnswers s.par c f ++ .fail :: as →
      exec (.read ⟨true, true⟩ len) s =
        .next (ended s (resolverRequests s.par ++ [.request (reqBurst s.par 1), errorItem .transportError]) as
          s.takes)) ∧
    (cfgMode s.par (cfgOf c f) ≠ .bypass → s.answers = resolverAnswers s.par c f ++ .fail :: as →
      exec (.read ⟨true, true⟩ len) s =
        .next (ended s (resolverRequests s.par ++ [.request (reqFifoStatus s.par), errorItem .transportError]) as
          s.takes)) ∧
    (cfgMode s.par (cfgOf c f) ≠ .bypass → actualLen len (fifoStatusCount q) ≠ 0 →
      s.answers = resolverAnswers s.par c f ++ .ok [q] :: .fail :: as →
      exec (.read ⟨true, true⟩ len) s =
        .next (ended s (resolverRequests s.par ++ [.request (reqFifoStatus s.par),
          .request (reqBurst s.par (actualLen len (fifoStatusCount q))), errorItem .transportError]) as s.takes))

/-- R119, for every operation: a completion whose status is not OK carries nothing else, and one that carries records
carries exactly as many as its `ALEN` says. -/
def Obligations.CompletionsAreAllOrNothing : Prop :=
  ∀ s t : State, step s = .next t → ∀ c ∈ completionsIn (passed s t),
    (c.status ≠ .ok → c.alen = none ∧ c.cfg = none ∧ c.recs = []) ∧
    (∀ n, c.alen = some n → c.recs.length = n.toNat) ∧
    (c.alen = none → c.recs = [])

/-! ## RESOLVE -/

/-- From R102 and R103, in the default order of the two reads: `RESOLVE` reads `FIFO_CTL` then `DATA_FORMAT` and
delivers `CFG`; its errors, in their order; and the second read is not issued if the first fails. -/
def Obligations.ResolveDeliversCfg : Prop :=
  ∀ (s : State) (c f : Byte) (as : List Answer) (hi : Bool), s.par.order = .ctlFirst →
    exec (.resolve ⟨false, hi⟩) s = .next (ended s [errorItem .nullHandle] s.answers s.takes) ∧
    exec (.resolve ⟨true, false⟩) s = .next (ended s [errorItem .notInitialized] s.answers s.takes) ∧
    (s.answers = .fail :: as →
      exec (.resolve ⟨true, true⟩) s =
        .next (ended s [.request (reqFifoCtl s.par), errorItem .transportError] as s.takes)) ∧
    (s.answers = .ok [c] :: .fail :: as →
      exec (.resolve ⟨true, true⟩) s =
        .next (ended s [.request (reqFifoCtl s.par), .request (reqDataFormat s.par), errorItem .transportError] as
          s.takes)) ∧
    (s.answers = .ok [c] :: .ok [f] :: as →
      exec (.resolve ⟨true, true⟩) s =
        .next (ended s [.request (reqFifoCtl s.par), .request (reqDataFormat s.par),
          .completion ⟨.ok, none, some (c.extractLsb' 6 2 ++ f.extractLsb' 0 4), []⟩] as s.takes))

/-- The same `CFG` in either order of the two resolver reads (D7, U12). -/
def Obligations.ResolveInEitherOrder : Prop :=
  ∀ (s : State) (c f : Byte) (as : List Answer), s.answers = resolverAnswers s.par c f ++ as →
    exec (.resolve ⟨true, true⟩) s =
      .next (ended s (resolverRequests s.par ++ [.completion ⟨.ok, none, some (cfgOf c f), []⟩]) as s.takes)

/-- With no answer the resolver waits (R67): the request is outstanding, and of the state that acceptance leaves to the
command nothing has changed but the phase, the trace, the latch registers of the command's own operands and, once the
`FIFO_CTL` answer has come, `CFG[5:4]`. That `CFG[5:4]` is written already then, and not after both answers as in R102's
pseudocode, is the model's choice (assumption 5, DESIGN CHOICE); the other latch registers were written from the word
before (assumption 16). The registers' frame inside an operation (from R47). -/
def Obligations.ResolverWaitsForItsAnswers : Prop :=
  ∀ (s : State) (len : BitVec 16) (c : Byte), s.par.order = .ctlFirst → len ≠ 0 →
    (s.answers = [] →
      exec (.resolve ⟨true, true⟩) s = .next { s with
        phase := .res0, trace := s.trace ++ [.request (reqFifoCtl s.par)],
        regs := { s.regs with op := .resolve, hp := true, hi := true } } ∧
      exec (.read ⟨true, true⟩ len) s = .next { s with
        phase := .res0, trace := s.trace ++ [.request (reqFifoCtl s.par)],
        regs := { s.regs with op := .read, hp := true, hi := true, len := len } }) ∧
    (s.answers = [.ok [c]] →
      exec (.resolve ⟨true, true⟩) s = .next { s with
        phase := .res1, answers := [],
        trace := s.trace ++ [.request (reqFifoCtl s.par), .request (reqDataFormat s.par)],
        regs := { s.regs with op := .resolve, hp := true, hi := true,
                              cfg := c.extractLsb' 6 2 ++ s.regs.cfg.extractLsb' 0 4 } } ∧
      exec (.read ⟨true, true⟩ len) s = .next { s with
        phase := .res1, answers := [],
        trace := s.trace ++ [.request (reqFifoCtl s.par), .request (reqDataFormat s.par)],
        regs := { s.regs with op := .read, hp := true, hi := true, len := len,
                              cfg := c.extractLsb' 6 2 ++ s.regs.cfg.extractLsb' 0 4 } })

/-! ## READ -/

/-- R112: in Bypass mode `READ` makes one burst of 6 bytes whatever `LEN` is, does not read `FIFO_STATUS`, and
delivers exactly one record. -/
def Obligations.ReadInBypassDeliversOneRecord : Prop :=
  ∀ (s : State) (len : BitVec 16) (c f : Byte) (bs : List Byte) (as : List Answer),
    len ≠ 0 → cfgMode s.par (cfgOf c f) = .bypass → bs.length = 6 →
    s.answers = resolverAnswers s.par c f ++ .ok bs :: as →
    exec (.read ⟨true, true⟩ len) s =
      .next (ended s (resolverRequests s.par ++
        [.request ⟨.read, s.par.addrDataX0, 6⟩,
         .completion ⟨.ok, some 1, none, [decodeOne s.par (cfgOf c f) (answerRecord bs 0)]⟩]) as s.takes)

/-- R113, R114, R117, R118: out of Bypass mode `READ` reads the count, fetches `n = min(LEN, count)` records in
one burst of `6 n` bytes, and delivers the decode of each six-byte chunk, in ascending order, all under the one `CFG`
resolved at the start. -/
def Obligations.ReadDeliversTheQueuedRecords : Prop :=
  ∀ (s : State) (len : BitVec 16) (c f q : Byte) (bs : List Byte) (as : List Answer) (n : Nat),
    n = min len.toNat (q.toNat % 64) → n ≠ 0 → cfgMode s.par (cfgOf c f) ≠ .bypass → bs.length = 6 * n →
    s.answers = resolverAnswers s.par c f ++ .ok [q] :: .ok bs :: as →
    exec (.read ⟨true, true⟩ len) s =
      .next (ended s (resolverRequests s.par ++
        [.request (reqFifoStatus s.par), .request ⟨.read, s.par.addrDataX0, BitVec.ofNat 16 (6 * n)⟩,
         .completion ⟨.ok, some (BitVec.ofNat 6 n), none,
           (List.range n).map fun i => decodeOne s.par (cfgOf c f) (answerRecord bs i)⟩]) as s.takes)

/-- R115: an empty queue is success with no record, after exactly three requests and no burst. -/
def Obligations.ReadOfAnEmptyQueue : Prop :=
  ∀ (s : State) (len : BitVec 16) (c f q : Byte) (as : List Answer),
    len ≠ 0 → q.toNat % 64 = 0 → cfgMode s.par (cfgOf c f) ≠ .bypass →
    s.answers = resolverAnswers s.par c f ++ .ok [q] :: as →
    exec (.read ⟨true, true⟩ len) s =
      .next (ended s (resolverRequests s.par ++
        [.request (reqFifoStatus s.par), .completion ⟨.ok, some 0, none, []⟩]) as s.takes)

/-- With the count read and no burst answer `READ` waits in `BURST`: `CNT` and `ALEN` hold the count and the minimum
(R26, R114), and of the registers only the latch registers of its operands, `CFG`, `CNT` and `ALEN` have changed
(R47). -/
def Obligations.ReadWaitsForTheBurst : Prop :=
  ∀ (s : State) (len : BitVec 16) (c f q : Byte),
    len ≠ 0 → cfgMode s.par (cfgOf c f) ≠ .bypass → q.toNat % 64 ≠ 0 →
    s.answers = resolverAnswers s.par c f ++ [.ok [q]] →
    exec (.read ⟨true, true⟩ len) s = .next { s with
      phase := .burst, answers := [],
      trace := s.trace ++ (resolverRequests s.par ++ [.request (reqFifoStatus s.par),
        .request ⟨.read, s.par.addrDataX0, BitVec.ofNat 16 (6 * min len.toNat (q.toNat % 64))⟩]),
      regs := { s.regs with op := .read, hp := true, hi := true, len := len, cfg := cfgOf c f,
                            cnt := q.extractLsb' 0 6, alen := BitVec.ofNat 6 (min len.toNat (q.toNat % 64)) } }

/-- One pass of the decode loop (R121, R133, R32): `RAW`, `COR`, `G` and `RES[IDX]` take the stages' values of record
`IDX` of `BUF`, `IDX` goes on by one, and nothing else changes. -/
def Obligations.DecodeLoopWritesOneRecord : Prop :=
  ∀ (s : State), s.rst = false → s.phase = .dec → s.regs.op = .read → s.regs.idx.toNat + 1 < s.regs.alen.toNat →
    let b := bufRecord s.regs.buf s.regs.idx.toNat
    let r := decodeOne s.par s.regs.cfg b
    ∃ t, tick s = .next t ∧
      t.regs.raw = ⟨b.b1 ++ b.b0, b.b3 ++ b.b2, b.b5 ++ b.b4⟩ ∧
      t.regs.res.toList[s.regs.idx.toNat]? = some r ∧
      t = { s with regs := { s.regs with
              raw := r.raw, cor := r.cor, g := r.g, res := t.regs.res, idx := s.regs.idx + 1 } } ∧
      ∀ j, j ≠ s.regs.idx.toNat → t.regs.res.toList[j]? = s.regs.res.toList[j]?

/-- The burst answer is put in `BUF` by position (R27, R57): byte `k` of the answer in `BUF[k]`, the bytes past the
answer unchanged; `IDX` is 0 and the phase `DEC` (R121); nothing else changes. -/
def Obligations.BurstFillsTheBuffer : Prop :=
  ∀ (s : State) (bs : List Byte) (as : List Answer),
    s.rst = false → s.phase = .burst → s.regs.op = .read → s.answers = .ok bs :: as →
    bs.length = 6 * s.regs.alen.toNat →
    ∃ t, tick s = .next t ∧ t = { s with phase := .dec, answers := as, regs :=
        { s.regs with buf := t.regs.buf, idx := 0 } } ∧
      (∀ k, k < bs.length → t.regs.buf.toList[k]? = bs[k]?) ∧
      ∀ k, bs.length ≤ k → t.regs.buf.toList[k]? = s.regs.buf.toList[k]?

/-- 95_test_vectors.md program P7: a `READ` of one record delivers the record `DECODE` delivers for the `CFG` that
`RESOLVE` delivers and the same six bytes. -/
def Obligations.ReadIsResolveThenDecode : Prop :=
  ∀ (s : State) (c f q : Byte) (b : Six) (forResolve forRead as : List Answer),
    cfgMode s.par (cfgOf c f) ≠ .bypass → q.toNat % 64 ≠ 0 →
    forResolve = resolverAnswers s.par c f →
    forRead = resolverAnswers s.par c f ++ .ok [q] :: .ok [b.b0, b.b1, b.b2, b.b3, b.b4, b.b5] :: as →
    ∃ v d r, exec (.resolve ⟨true, true⟩) { s with answers := forResolve } = .next v ∧
    exec (.decode (cfgOf c f) (opbOf b)) s = .next d ∧
    exec (.read ⟨true, true⟩ 1) { s with answers := forRead } = .next r ∧
    (completionsIn (passed s v)).map (·.cfg) = [some (cfgOf c f)] ∧
    (completionsIn (passed s r)).map (·.recs) = (completionsIn (passed s d)).map (·.recs) ∧
    (completionsIn (passed s r)).map (·.alen) = (completionsIn (passed s d)).map (·.alen)

/-! ## DECODE and its stages -/

/-- R132, for the operation of R131: `DECODE` always completes OK with the one record of its operand, and makes no
request and no event. -/
def Obligations.DecodeDeliversOneRecord : Prop :=
  ∀ (s : State) (opcfg : CfgWord) (opb : BitVec 48),
    exec (.decode opcfg opb) s =
      .next (ended s [.completion ⟨.ok, some 1, none, [decodeOne s.par opcfg
        ⟨opb.extractLsb' 0 8, opb.extractLsb' 8 8, opb.extractLsb' 16 8,
         opb.extractLsb' 24 8, opb.extractLsb' 32 8, opb.extractLsb' 40 8⟩]⟩] s.answers s.takes)

/-- R135: the word of two bytes, little-endian and two's complement; the map from the bytes is a bijection; and which
bytes of a record make which lane. -/
def Obligations.AssembleIsLittleEndian : Prop :=
  (∀ lo hi : Byte, (assemble lo hi).toInt =
    256 * hi.toInt + lo.toNat) ∧
  (∀ lo hi lo' hi' : Byte, assemble lo hi = assemble lo' hi' → lo = lo' ∧ hi = hi') ∧
  (∀ v : I16, ∃ lo hi : Byte, assemble lo hi = v) ∧
  ∀ b : Six, assembleRecord b = ⟨assemble b.b0 b.b1, assemble b.b2 b.b3, assemble b.b4 b.b5⟩

/-- R136: the width, the shift and the high-bit mask of every configuration. -/
def Obligations.WidthTable : Prop :=
  ∀ c : CfgWord,
    width specParams c = 10 + (if c.getLsbD 3 then (c.extractLsb' 0 2).toNat else 0) ∧
    shift specParams c = 16 - width specParams c ∧
    highMask 10 = 0xFC00 ∧ highMask 11 = 0xF800 ∧ highMask 12 = 0xF000 ∧ highMask 13 = 0xE000

/-- R137: left-justified words are divided by `2^S` with rounding toward minus infinity and land in the range
of their width; right-justified words pass whole. -/
def Obligations.CorrectIsFloorDivision : Prop :=
  ∀ (p : Params) (c : CfgWord) (raw : I16),
    (cfgJust p c = .left →
      (correct p c raw).toInt = raw.toInt.fdiv (2 ^ shift p c) ∧
      -(2 ^ (width p c - 1)) ≤ (correct p c raw).toInt ∧ (correct p c raw).toInt ≤ 2 ^ (width p c - 1) - 1) ∧
    (cfgJust p c = .right → correct p c raw = raw)

/-- R138: the three wordings of the Left case give the same 16 bits: a logical shift then OR with the mask when bit
15 is set, an arithmetic shift then the same OR, and the top `W` bits sign-extended. All are the floor. -/
def Obligations.SignExtensionWordingsAgree : Prop :=
  ∀ (raw : I16) (w : Nat), 10 ≤ w → w ≤ 13 →
    (if raw.getLsbD 15 then (raw >>> (16 - w)) ||| highMask w else raw >>> (16 - w)) = asr16 raw (16 - w) ∧
    (if raw.getLsbD 15 then asr16 raw (16 - w) ||| highMask w else asr16 raw (16 - w)) = asr16 raw (16 - w) ∧
    sext16 (raw >>> (16 - w)) w = asr16 raw (16 - w) ∧
    (asr16 raw (16 - w)).toInt = raw.toInt.fdiv (2 ^ (16 - w))

/-- R134: of `CFG` the decode reads FR, JUST and RANGE, never MODE. -/
def Obligations.DecodeIgnoresMode : Prop :=
  ∀ (p : Params) (c c' : CfgWord) (b : Six),
    c.extractLsb' 0 4 = c'.extractLsb' 0 4 → decodeOne p c b = decodeOne p c' b

/-- R133: each lane goes through the three stages under the same `CFG`, and lane `a` of the result depends on bytes
`2a`, `2a + 1` and `CFG` only. -/
def Obligations.LanesAreIndependent : Prop :=
  ∀ (p : Params) (c : CfgWord) (b b' : Six),
    let r := decodeOne p c b
    let r' := decodeOne p c b'
    (r.raw.x = assemble b.b0 b.b1 ∧ r.cor.x = correct p c r.raw.x ∧ r.g.x = scale p c r.cor.x) ∧
    (r.raw.y = assemble b.b2 b.b3 ∧ r.cor.y = correct p c r.raw.y ∧ r.g.y = scale p c r.cor.y) ∧
    (r.raw.z = assemble b.b4 b.b5 ∧ r.cor.z = correct p c r.raw.z ∧ r.g.z = scale p c r.cor.z) ∧
    (b.b0 = b'.b0 → b.b1 = b'.b1 → r.raw.x = r'.raw.x ∧ r.cor.x = r'.cor.x ∧ r.g.x = r'.g.x) ∧
    (b.b2 = b'.b2 → b.b3 = b'.b3 → r.raw.y = r'.raw.y ∧ r.cor.y = r'.cor.y ∧ r.g.y = r'.g.y) ∧
    (b.b4 = b'.b4 → b.b5 = b'.b5 → r.raw.z = r'.raw.z ∧ r.cor.z = r'.cor.z ∧ r.g.z = r'.g.z)

/-- R147: the whole function of one lane as one table, under the spec's parameters: JUST chooses the shift and FR and
RANGE the constant. -/
def Obligations.DecodeTable : Prop :=
  ∀ (c : CfgWord) (b : Six),
    let raw := (decodeOne specParams c b).raw
    let cor := (decodeOne specParams c b).cor
    let g := (decodeOne specParams c b).g
    let r := (c.extractLsb' 0 2).toNat
    let k : F32 := if c.getLsbD 3 then 0x3B7F9724 else BitVec.ofNat 32 (0x3B7F9724 + r * 0x00800000)
    (c.getLsbD 2 = false → cor = raw) ∧
    (c.getLsbD 2 = true → c.getLsbD 3 = false → cor = raw.map fun v => asr16 v 6) ∧
    (c.getLsbD 2 = true → c.getLsbD 3 = true → cor = raw.map fun v => asr16 v (6 - r)) ∧
    g = cor.map fun v => fmul32 (i2f32 v) k

/-! ## Scaling -/

/-- R142: the constants as binary32 patterns, with their exact values, so that the four are 1, 2, 4 and 8 times the
first; and each is nearest to its decimal, closer than half of its own last place, `2 ^ (r - 32)`. -/
def Obligations.ScaleConstants : Prop :=
  k32 specParams.scaleG2 = 0x3B7F9724 ∧ k32 specParams.scaleFull = 0x3B7F9724 ∧
  k32 specParams.scaleG4 = 0x3BFF9724 ∧ k32 specParams.scaleG8 = 0x3C7F9724 ∧ k32 specParams.scaleG16 = 0x3CFF9724 ∧
  f32Value 0x3B7F9724 = 4187593 / 2 ^ 30 ∧ f32Value 0x3BFF9724 = 4187593 / 2 ^ 29 ∧
  f32Value 0x3C7F9724 = 4187593 / 2 ^ 28 ∧ f32Value 0x3CFF9724 = 4187593 / 2 ^ 27 ∧
  decimalValue specParams.scaleG2 = 0.0039 ∧ decimalValue specParams.scaleFull = 0.0039 ∧
  decimalValue specParams.scaleG4 = 0.0078 ∧ decimalValue specParams.scaleG8 = 0.0156 ∧
  decimalValue specParams.scaleG16 = 0.0312 ∧
  |f32Value 0x3B7F9724 - 0.0039| < 1 / 2 ^ 33 ∧ |f32Value 0x3BFF9724 - 0.0078| < 1 / 2 ^ 32 ∧
  |f32Value 0x3C7F9724 - 0.0156| < 1 / 2 ^ 31 ∧ |f32Value 0x3CFF9724 - 0.0312| < 1 / 2 ^ 30

/-- R143: the conversion of a 16-bit integer is exact, and that of 0 is +0. -/
def Obligations.IntegerConversionIsExact : Prop :=
  (∀ v : I16, f32Finite (i2f32 v) = true ∧ f32Value (i2f32 v) = (v.toInt : ℚ)) ∧ i2f32 0 = 0x00000000

/-- From R144 and 93_implementation_defined.md G3: the rounding to binary32 is to nearest, ties to even. For every
ratio that is not rounded to infinity, the result is at least as near as any other finite pattern, and where another
is as near the result is even. -/
def Obligations.RoundingIsNearestEven : Prop :=
  ∀ num den : Nat, 0 < den → round32 num den < inf32 → ∀ b : Nat, b < inf32 → b ≠ round32 num den →
    let x : ℚ := (num : ℚ) / den * 2 ^ 149
    |(units32 (round32 num den) : ℚ) - x| ≤ |(units32 b : ℚ) - x| ∧
    (|(units32 (round32 num den) : ℚ) - x| = |(units32 b : ℚ) - x| → round32 num den % 2 = 0)

/-- R144: under the spec's parameters no product is subnormal, infinite or NaN: the smallest non-zero magnitude is
0x3B7F9724 and the largest 0x447F9724, which -32768 reaches at G16. -/
def Obligations.ProductsStayNormal : Prop :=
  (∀ (c : CfgWord) (v : I16), v ≠ 0 →
    0x3B7F9724 ≤ f32Mag (scale specParams c v) ∧ f32Mag (scale specParams c v) ≤ 0x447F9724) ∧
  scale specParams 0b000000 1 = 0x3B7F9724 ∧ scale specParams 0b000011 0x8000 = 0xC47F9724

/-- From R144: the special operands of the multiply do not occur for any literal of the model's type `Decimal`, mantissa
below 65536 and at most 15 places (that bound is the model's choice, assumption 12, DESIGN CHOICE): the product of every
count and every such literal is finite, and is the exact product of the two patterns' values rounded once. -/
def Obligations.MultiplyRoundsOnce : Prop :=
  ∀ (v : I16) (c : Decimal),
    f32Finite (mulF32Rne v c) = true ∧
    mulF32Rne v c = f32Of v.msb (round32 (v.toInt.natAbs * units32 (f32Mag (k32 c))) (2 ^ 149))

/-- Sign symmetry of `SCALE` (42_sample_decoder.md section 5), for either setting of `NUMERICS`: the negative count
gives the negative value, and 0 gives +0. -/
def Obligations.ScaleIsSignSymmetric : Prop :=
  (∀ (p : Params) (c : CfgWord) (v : I16), v ≠ 0 → v ≠ 0x8000 →
    scale p c (-v) = scale p c v ^^^ 0x80000000) ∧
  ∀ (p : Params) (c : CfgWord), scale p c 0 = 0x00000000

/-- Range scaling is exact (42_sample_decoder.md section 5): with FR = 0 the pattern at range `r` is the pattern at
G2 with `r` added to the exponent field, for every count but 0. -/
def Obligations.RangeScalingIsExact : Prop :=
  ∀ (r : BitVec 2) (v : I16), v ≠ 0 →
    scale specParams (0#4 ++ r) v = scale specParams 0 v + BitVec.ofNat 32 (r.toNat * 0x00800000)

/-- Full resolution (42_sample_decoder.md section 5, the source's testable property 2): `RANGE` changes nothing, and
the value is that of 10-bit mode at G2. -/
def Obligations.FullResolutionIgnoresRange : Prop :=
  (∀ (p : Params) (c c' : CfgWord) (v : I16), cfgFull p c = true → cfgFull p c' = true →
    scale p c v = scale p c' v) ∧
  ∀ (c c' : CfgWord) (v : I16), cfgFull specParams c = true → cfgFull specParams c' = false →
    cfgRange specParams c' = .g2 → scale specParams c v = scale specParams c' v

/-- The distance from the ideal decimal product (42_sample_decoder.md section 5): at most 7.26e-6 times `2^r` at every
count, so within the 1e-4 of the source's example. -/
def Obligations.ScaleIsCloseToTheDecimalProduct : Prop :=
  ∀ (c : CfgWord) (v : I16),
    |f32Value (scale specParams c v) - v.toInt * decimalValue (scaleConst specParams c)| ≤
      726 / 10 ^ 8 * 2 ^ (if c.getLsbD 3 then 0 else (c.extractLsb' 0 2).toNat) ∧
    |f32Value (scale specParams c v) - v.toInt * decimalValue (scaleConst specParams c)| ≤ 1 / 10 ^ 4

/-! ## DISPATCH -/

/-- R166, R168: with the read answered and the sink ready, `DISPATCH` delivers one event for each set bit
of the byte read, bit 7 first, and completes OK (at once when no bit is set); a read that fails aborts the whole
dispatch with no event. -/
def Obligations.DispatchDeliversAllOrNothing : Prop :=
  ∀ (s : State) (as : List Answer),
    (∀ b : Byte, s.answers = .ok [b] :: as → (eventsOf b).length ≤ s.takes →
      exec (.dispatch ⟨true, true⟩) s =
        .next (ended s (.request (reqIntSource s.par) :: (eventsOf b).map PortItem.event ++
          [.completion ⟨.ok, none, none, []⟩]) as (s.takes - (eventsOf b).length))) ∧
    (s.answers = .fail :: as →
      exec (.dispatch ⟨true, true⟩) s =
        .next (ended s [.request (reqIntSource s.par), errorItem .transportError] as s.takes))

/-- From R165: when the sink takes only `m` of the events, the next one stays presented, unchanged, and neither a later
event nor the completion is given; `SRC`, `PEND` and `K` hold the byte, the events left and the event presented. -/
def Obligations.DispatchWaitsForTheSink : Prop :=
  ∀ (s : State) (b : Byte) (as : List Answer), s.answers = .ok [b] :: as → s.takes < (eventsOf b).length →
    ∃ t, exec (.dispatch ⟨true, true⟩) s = .next t ∧
      t.phase = .emit ∧ t.takes = 0 ∧ t.answers = as ∧
      (eventsOf b)[s.takes]? = some t.regs.k ∧ t.eventPort = some t.regs.k ∧ eventsOf t.regs.pend = (eventsOf b).drop s.takes ∧
      t = { s with
        phase := .emit, takes := 0, answers := as,
        trace := s.trace ++ (.request (reqIntSource s.par) :: ((eventsOf b).take s.takes).map PortItem.event),
        regs := { s.regs with op := .dispatch, hp := true, hi := true, src := b, pend := t.regs.pend,
                              k := t.regs.k } } ∧
      (t.rst = false → step t = .next t)

/-- From R166: the events of one `DISPATCH` are strictly descending bit positions, none repeated, and each is a set bit
of the byte read. -/
def Obligations.EventsDescend : Prop :=
  ∀ (s t : State) (h : Handle), exec (.dispatch h) s = .next t →
    (eventsIn (passed s t)).Pairwise (fun a b => b.toNat < a.toNat) ∧
    ∀ bs as, s.answers = .ok bs :: as → ∀ k ∈ eventsIn (passed s t), (firstByte bs).getLsbD k.toNat = true

/-- R164: the priority encoder gives the highest set bit, and none only for 0; and the loop that takes the highest bit
and clears it sends the events of the plain scan from bit 7 down to bit 0. -/
def Obligations.EncoderGivesTheHighestBit : Prop :=
  ∀ b : Byte,
    (highestBit b = none ↔ b = 0) ∧
    (∀ k, highestBit b = some k → b.getLsbD k.toNat = true ∧ ∀ j, k.toNat < j → b.getLsbD j = false) ∧
    (highestBit b = none → eventsOf b = []) ∧
    ∀ k, highestBit b = some k → eventsOf b = k :: eventsOf (clearBit b k)
end

