-- ==== Sys2Proof/Laws/State.lean ====
section
/-! SUPPORT. One lemma for each field of `State` under each named update, all true by `rfl`, so that no later proof
unfolds a record update. -/

namespace Sys2Proof.Machine

/-! ## `setPhase` -/

@[simp] theorem State.setPhase_phase (p : Phase) (s : State) : (s.setPhase p).phase = p := rfl
@[simp] theorem State.setPhase_regs (p : Phase) (s : State) : (s.setPhase p).regs = s.regs := rfl
@[simp] theorem State.setPhase_par (p : Phase) (s : State) : (s.setPhase p).par = s.par := rfl
@[simp] theorem State.setPhase_cmds (p : Phase) (s : State) : (s.setPhase p).cmds = s.cmds := rfl
@[simp] theorem State.setPhase_answers (p : Phase) (s : State) : (s.setPhase p).answers = s.answers := rfl
@[simp] theorem State.setPhase_takes (p : Phase) (s : State) : (s.setPhase p).takes = s.takes := rfl
@[simp] theorem State.setPhase_rst (p : Phase) (s : State) : (s.setPhase p).rst = s.rst := rfl
@[simp] theorem State.setPhase_trace (p : Phase) (s : State) : (s.setPhase p).trace = s.trace := rfl
@[simp] theorem State.setPhase_draws (p : Phase) (s : State) : (s.setPhase p).draws = s.draws := rfl

/-! ## `setStatus` -/

@[simp] theorem State.setStatus_phase (v : Status) (s : State) : (s.setStatus v).phase = s.phase := rfl
@[simp] theorem State.setStatus_regs (v : Status) (s : State) : (s.setStatus v).regs = { s.regs with status := v } := rfl
@[simp] theorem State.setStatus_par (v : Status) (s : State) : (s.setStatus v).par = s.par := rfl
@[simp] theorem State.setStatus_cmds (v : Status) (s : State) : (s.setStatus v).cmds = s.cmds := rfl
@[simp] theorem State.setStatus_answers (v : Status) (s : State) : (s.setStatus v).answers = s.answers := rfl
@[simp] theorem State.setStatus_takes (v : Status) (s : State) : (s.setStatus v).takes = s.takes := rfl
@[simp] theorem State.setStatus_rst (v : Status) (s : State) : (s.setStatus v).rst = s.rst := rfl
@[simp] theorem State.setStatus_trace (v : Status) (s : State) : (s.setStatus v).trace = s.trace := rfl
@[simp] theorem State.setStatus_draws (v : Status) (s : State) : (s.setStatus v).draws = s.draws := rfl

/-! ## `setCfg` -/

@[simp] theorem State.setCfg_phase (v : CfgWord) (s : State) : (s.setCfg v).phase = s.phase := rfl
@[simp] theorem State.setCfg_regs (v : CfgWord) (s : State) : (s.setCfg v).regs = { s.regs with cfg := v } := rfl
@[simp] theorem State.setCfg_par (v : CfgWord) (s : State) : (s.setCfg v).par = s.par := rfl
@[simp] theorem State.setCfg_cmds (v : CfgWord) (s : State) : (s.setCfg v).cmds = s.cmds := rfl
@[simp] theorem State.setCfg_answers (v : CfgWord) (s : State) : (s.setCfg v).answers = s.answers := rfl
@[simp] theorem State.setCfg_takes (v : CfgWord) (s : State) : (s.setCfg v).takes = s.takes := rfl
@[simp] theorem State.setCfg_rst (v : CfgWord) (s : State) : (s.setCfg v).rst = s.rst := rfl
@[simp] theorem State.setCfg_trace (v : CfgWord) (s : State) : (s.setCfg v).trace = s.trace := rfl
@[simp] theorem State.setCfg_draws (v : CfgWord) (s : State) : (s.setCfg v).draws = s.draws := rfl

/-! ## `setCnt` -/

@[simp] theorem State.setCnt_phase (v : BitVec 6) (s : State) : (s.setCnt v).phase = s.phase := rfl
@[simp] theorem State.setCnt_regs (v : BitVec 6) (s : State) : (s.setCnt v).regs = { s.regs with cnt := v } := rfl
@[simp] theorem State.setCnt_par (v : BitVec 6) (s : State) : (s.setCnt v).par = s.par := rfl
@[simp] theorem State.setCnt_cmds (v : BitVec 6) (s : State) : (s.setCnt v).cmds = s.cmds := rfl
@[simp] theorem State.setCnt_answers (v : BitVec 6) (s : State) : (s.setCnt v).answers = s.answers := rfl
@[simp] theorem State.setCnt_takes (v : BitVec 6) (s : State) : (s.setCnt v).takes = s.takes := rfl
@[simp] theorem State.setCnt_rst (v : BitVec 6) (s : State) : (s.setCnt v).rst = s.rst := rfl
@[simp] theorem State.setCnt_trace (v : BitVec 6) (s : State) : (s.setCnt v).trace = s.trace := rfl
@[simp] theorem State.setCnt_draws (v : BitVec 6) (s : State) : (s.setCnt v).draws = s.draws := rfl

/-! ## `setAlen` -/

@[simp] theorem State.setAlen_phase (v : BitVec 6) (s : State) : (s.setAlen v).phase = s.phase := rfl
@[simp] theorem State.setAlen_regs (v : BitVec 6) (s : State) : (s.setAlen v).regs = { s.regs with alen := v } := rfl
@[simp] theorem State.setAlen_par (v : BitVec 6) (s : State) : (s.setAlen v).par = s.par := rfl
@[simp] theorem State.setAlen_cmds (v : BitVec 6) (s : State) : (s.setAlen v).cmds = s.cmds := rfl
@[simp] theorem State.setAlen_answers (v : BitVec 6) (s : State) : (s.setAlen v).answers = s.answers := rfl
@[simp] theorem State.setAlen_takes (v : BitVec 6) (s : State) : (s.setAlen v).takes = s.takes := rfl
@[simp] theorem State.setAlen_rst (v : BitVec 6) (s : State) : (s.setAlen v).rst = s.rst := rfl
@[simp] theorem State.setAlen_trace (v : BitVec 6) (s : State) : (s.setAlen v).trace = s.trace := rfl
@[simp] theorem State.setAlen_draws (v : BitVec 6) (s : State) : (s.setAlen v).draws = s.draws := rfl

/-! ## `loadBuf` -/

@[simp] theorem State.loadBuf_phase (v : List Byte) (s : State) : (s.loadBuf v).phase = s.phase := rfl
@[simp] theorem State.loadBuf_regs (v : List Byte) (s : State) : (s.loadBuf v).regs = { s.regs with buf := writeBuf s.regs.buf v } := rfl
@[simp] theorem State.loadBuf_par (v : List Byte) (s : State) : (s.loadBuf v).par = s.par := rfl
@[simp] theorem State.loadBuf_cmds (v : List Byte) (s : State) : (s.loadBuf v).cmds = s.cmds := rfl
@[simp] theorem State.loadBuf_answers (v : List Byte) (s : State) : (s.loadBuf v).answers = s.answers := rfl
@[simp] theorem State.loadBuf_takes (v : List Byte) (s : State) : (s.loadBuf v).takes = s.takes := rfl
@[simp] theorem State.loadBuf_rst (v : List Byte) (s : State) : (s.loadBuf v).rst = s.rst := rfl
@[simp] theorem State.loadBuf_trace (v : List Byte) (s : State) : (s.loadBuf v).trace = s.trace := rfl
@[simp] theorem State.loadBuf_draws (v : List Byte) (s : State) : (s.loadBuf v).draws = s.draws := rfl

/-! ## `setIdx` -/

@[simp] theorem State.setIdx_phase (v : BitVec 6) (s : State) : (s.setIdx v).phase = s.phase := rfl
@[simp] theorem State.setIdx_regs (v : BitVec 6) (s : State) : (s.setIdx v).regs = { s.regs with idx := v } := rfl
@[simp] theorem State.setIdx_par (v : BitVec 6) (s : State) : (s.setIdx v).par = s.par := rfl
@[simp] theorem State.setIdx_cmds (v : BitVec 6) (s : State) : (s.setIdx v).cmds = s.cmds := rfl
@[simp] theorem State.setIdx_answers (v : BitVec 6) (s : State) : (s.setIdx v).answers = s.answers := rfl
@[simp] theorem State.setIdx_takes (v : BitVec 6) (s : State) : (s.setIdx v).takes = s.takes := rfl
@[simp] theorem State.setIdx_rst (v : BitVec 6) (s : State) : (s.setIdx v).rst = s.rst := rfl
@[simp] theorem State.setIdx_trace (v : BitVec 6) (s : State) : (s.setIdx v).trace = s.trace := rfl
@[simp] theorem State.setIdx_draws (v : BitVec 6) (s : State) : (s.setIdx v).draws = s.draws := rfl

/-! ## `setRaw` -/

@[simp] theorem State.setRaw_phase (v : Lanes I16) (s : State) : (s.setRaw v).phase = s.phase := rfl
@[simp] theorem State.setRaw_regs (v : Lanes I16) (s : State) : (s.setRaw v).regs = { s.regs with raw := v } := rfl
@[simp] theorem State.setRaw_par (v : Lanes I16) (s : State) : (s.setRaw v).par = s.par := rfl
@[simp] theorem State.setRaw_cmds (v : Lanes I16) (s : State) : (s.setRaw v).cmds = s.cmds := rfl
@[simp] theorem State.setRaw_answers (v : Lanes I16) (s : State) : (s.setRaw v).answers = s.answers := rfl
@[simp] theorem State.setRaw_takes (v : Lanes I16) (s : State) : (s.setRaw v).takes = s.takes := rfl
@[simp] theorem State.setRaw_rst (v : Lanes I16) (s : State) : (s.setRaw v).rst = s.rst := rfl
@[simp] theorem State.setRaw_trace (v : Lanes I16) (s : State) : (s.setRaw v).trace = s.trace := rfl
@[simp] theorem State.setRaw_draws (v : Lanes I16) (s : State) : (s.setRaw v).draws = s.draws := rfl

/-! ## `setCor` -/

@[simp] theorem State.setCor_phase (v : Lanes I16) (s : State) : (s.setCor v).phase = s.phase := rfl
@[simp] theorem State.setCor_regs (v : Lanes I16) (s : State) : (s.setCor v).regs = { s.regs with cor := v } := rfl
@[simp] theorem State.setCor_par (v : Lanes I16) (s : State) : (s.setCor v).par = s.par := rfl
@[simp] theorem State.setCor_cmds (v : Lanes I16) (s : State) : (s.setCor v).cmds = s.cmds := rfl
@[simp] theorem State.setCor_answers (v : Lanes I16) (s : State) : (s.setCor v).answers = s.answers := rfl
@[simp] theorem State.setCor_takes (v : Lanes I16) (s : State) : (s.setCor v).takes = s.takes := rfl
@[simp] theorem State.setCor_rst (v : Lanes I16) (s : State) : (s.setCor v).rst = s.rst := rfl
@[simp] theorem State.setCor_trace (v : Lanes I16) (s : State) : (s.setCor v).trace = s.trace := rfl
@[simp] theorem State.setCor_draws (v : Lanes I16) (s : State) : (s.setCor v).draws = s.draws := rfl

/-! ## `setG` -/

@[simp] theorem State.setG_phase (v : Lanes F32) (s : State) : (s.setG v).phase = s.phase := rfl
@[simp] theorem State.setG_regs (v : Lanes F32) (s : State) : (s.setG v).regs = { s.regs with g := v } := rfl
@[simp] theorem State.setG_par (v : Lanes F32) (s : State) : (s.setG v).par = s.par := rfl
@[simp] theorem State.setG_cmds (v : Lanes F32) (s : State) : (s.setG v).cmds = s.cmds := rfl
@[simp] theorem State.setG_answers (v : Lanes F32) (s : State) : (s.setG v).answers = s.answers := rfl
@[simp] theorem State.setG_takes (v : Lanes F32) (s : State) : (s.setG v).takes = s.takes := rfl
@[simp] theorem State.setG_rst (v : Lanes F32) (s : State) : (s.setG v).rst = s.rst := rfl
@[simp] theorem State.setG_trace (v : Lanes F32) (s : State) : (s.setG v).trace = s.trace := rfl
@[simp] theorem State.setG_draws (v : Lanes F32) (s : State) : (s.setG v).draws = s.draws := rfl

/-! ## `storeRecord` -/

@[simp] theorem State.storeRecord_phase (i : Nat) (s : State) : (s.storeRecord i).phase = s.phase := rfl
@[simp] theorem State.storeRecord_regs (i : Nat) (s : State) : (s.storeRecord i).regs = { s.regs with res := s.regs.res.setIfInBounds i ⟨s.regs.raw, s.regs.cor, s.regs.g⟩ } := rfl
@[simp] theorem State.storeRecord_par (i : Nat) (s : State) : (s.storeRecord i).par = s.par := rfl
@[simp] theorem State.storeRecord_cmds (i : Nat) (s : State) : (s.storeRecord i).cmds = s.cmds := rfl
@[simp] theorem State.storeRecord_answers (i : Nat) (s : State) : (s.storeRecord i).answers = s.answers := rfl
@[simp] theorem State.storeRecord_takes (i : Nat) (s : State) : (s.storeRecord i).takes = s.takes := rfl
@[simp] theorem State.storeRecord_rst (i : Nat) (s : State) : (s.storeRecord i).rst = s.rst := rfl
@[simp] theorem State.storeRecord_trace (i : Nat) (s : State) : (s.storeRecord i).trace = s.trace := rfl
@[simp] theorem State.storeRecord_draws (i : Nat) (s : State) : (s.storeRecord i).draws = s.draws := rfl

/-! ## `setSrc` -/

@[simp] theorem State.setSrc_phase (v : Byte) (s : State) : (s.setSrc v).phase = s.phase := rfl
@[simp] theorem State.setSrc_regs (v : Byte) (s : State) : (s.setSrc v).regs = { s.regs with src := v } := rfl
@[simp] theorem State.setSrc_par (v : Byte) (s : State) : (s.setSrc v).par = s.par := rfl
@[simp] theorem State.setSrc_cmds (v : Byte) (s : State) : (s.setSrc v).cmds = s.cmds := rfl
@[simp] theorem State.setSrc_answers (v : Byte) (s : State) : (s.setSrc v).answers = s.answers := rfl
@[simp] theorem State.setSrc_takes (v : Byte) (s : State) : (s.setSrc v).takes = s.takes := rfl
@[simp] theorem State.setSrc_rst (v : Byte) (s : State) : (s.setSrc v).rst = s.rst := rfl
@[simp] theorem State.setSrc_trace (v : Byte) (s : State) : (s.setSrc v).trace = s.trace := rfl
@[simp] theorem State.setSrc_draws (v : Byte) (s : State) : (s.setSrc v).draws = s.draws := rfl

/-! ## `setPend` -/

@[simp] theorem State.setPend_phase (v : Byte) (s : State) : (s.setPend v).phase = s.phase := rfl
@[simp] theorem State.setPend_regs (v : Byte) (s : State) : (s.setPend v).regs = { s.regs with pend := v } := rfl
@[simp] theorem State.setPend_par (v : Byte) (s : State) : (s.setPend v).par = s.par := rfl
@[simp] theorem State.setPend_cmds (v : Byte) (s : State) : (s.setPend v).cmds = s.cmds := rfl
@[simp] theorem State.setPend_answers (v : Byte) (s : State) : (s.setPend v).answers = s.answers := rfl
@[simp] theorem State.setPend_takes (v : Byte) (s : State) : (s.setPend v).takes = s.takes := rfl
@[simp] theorem State.setPend_rst (v : Byte) (s : State) : (s.setPend v).rst = s.rst := rfl
@[simp] theorem State.setPend_trace (v : Byte) (s : State) : (s.setPend v).trace = s.trace := rfl
@[simp] theorem State.setPend_draws (v : Byte) (s : State) : (s.setPend v).draws = s.draws := rfl

/-! ## `setK` -/

@[simp] theorem State.setK_phase (v : BitVec 3) (s : State) : (s.setK v).phase = s.phase := rfl
@[simp] theorem State.setK_regs (v : BitVec 3) (s : State) : (s.setK v).regs = { s.regs with k := v } := rfl
@[simp] theorem State.setK_par (v : BitVec 3) (s : State) : (s.setK v).par = s.par := rfl
@[simp] theorem State.setK_cmds (v : BitVec 3) (s : State) : (s.setK v).cmds = s.cmds := rfl
@[simp] theorem State.setK_answers (v : BitVec 3) (s : State) : (s.setK v).answers = s.answers := rfl
@[simp] theorem State.setK_takes (v : BitVec 3) (s : State) : (s.setK v).takes = s.takes := rfl
@[simp] theorem State.setK_rst (v : BitVec 3) (s : State) : (s.setK v).rst = s.rst := rfl
@[simp] theorem State.setK_trace (v : BitVec 3) (s : State) : (s.setK v).trace = s.trace := rfl
@[simp] theorem State.setK_draws (v : BitVec 3) (s : State) : (s.setK v).draws = s.draws := rfl

/-! ## `setCmds` -/

@[simp] theorem State.setCmds_phase (v : List Command) (s : State) : (s.setCmds v).phase = s.phase := rfl
@[simp] theorem State.setCmds_regs (v : List Command) (s : State) : (s.setCmds v).regs = s.regs := rfl
@[simp] theorem State.setCmds_par (v : List Command) (s : State) : (s.setCmds v).par = s.par := rfl
@[simp] theorem State.setCmds_cmds (v : List Command) (s : State) : (s.setCmds v).cmds = v := rfl
@[simp] theorem State.setCmds_answers (v : List Command) (s : State) : (s.setCmds v).answers = s.answers := rfl
@[simp] theorem State.setCmds_takes (v : List Command) (s : State) : (s.setCmds v).takes = s.takes := rfl
@[simp] theorem State.setCmds_rst (v : List Command) (s : State) : (s.setCmds v).rst = s.rst := rfl
@[simp] theorem State.setCmds_trace (v : List Command) (s : State) : (s.setCmds v).trace = s.trace := rfl
@[simp] theorem State.setCmds_draws (v : List Command) (s : State) : (s.setCmds v).draws = s.draws := rfl

/-! ## `setAnswers` -/

@[simp] theorem State.setAnswers_phase (v : List Answer) (s : State) : (s.setAnswers v).phase = s.phase := rfl
@[simp] theorem State.setAnswers_regs (v : List Answer) (s : State) : (s.setAnswers v).regs = s.regs := rfl
@[simp] theorem State.setAnswers_par (v : List Answer) (s : State) : (s.setAnswers v).par = s.par := rfl
@[simp] theorem State.setAnswers_cmds (v : List Answer) (s : State) : (s.setAnswers v).cmds = s.cmds := rfl
@[simp] theorem State.setAnswers_answers (v : List Answer) (s : State) : (s.setAnswers v).answers = v := rfl
@[simp] theorem State.setAnswers_takes (v : List Answer) (s : State) : (s.setAnswers v).takes = s.takes := rfl
@[simp] theorem State.setAnswers_rst (v : List Answer) (s : State) : (s.setAnswers v).rst = s.rst := rfl
@[simp] theorem State.setAnswers_trace (v : List Answer) (s : State) : (s.setAnswers v).trace = s.trace := rfl
@[simp] theorem State.setAnswers_draws (v : List Answer) (s : State) : (s.setAnswers v).draws = s.draws := rfl

/-! ## `setTakes` -/

@[simp] theorem State.setTakes_phase (v : Nat) (s : State) : (s.setTakes v).phase = s.phase := rfl
@[simp] theorem State.setTakes_regs (v : Nat) (s : State) : (s.setTakes v).regs = s.regs := rfl
@[simp] theorem State.setTakes_par (v : Nat) (s : State) : (s.setTakes v).par = s.par := rfl
@[simp] theorem State.setTakes_cmds (v : Nat) (s : State) : (s.setTakes v).cmds = s.cmds := rfl
@[simp] theorem State.setTakes_answers (v : Nat) (s : State) : (s.setTakes v).answers = s.answers := rfl
@[simp] theorem State.setTakes_takes (v : Nat) (s : State) : (s.setTakes v).takes = v := rfl
@[simp] theorem State.setTakes_rst (v : Nat) (s : State) : (s.setTakes v).rst = s.rst := rfl
@[simp] theorem State.setTakes_trace (v : Nat) (s : State) : (s.setTakes v).trace = s.trace := rfl
@[simp] theorem State.setTakes_draws (v : Nat) (s : State) : (s.setTakes v).draws = s.draws := rfl

/-! ## `log` -/

@[simp] theorem State.log_phase (x : PortItem) (s : State) : (s.log x).phase = s.phase := rfl
@[simp] theorem State.log_regs (x : PortItem) (s : State) : (s.log x).regs = s.regs := rfl
@[simp] theorem State.log_par (x : PortItem) (s : State) : (s.log x).par = s.par := rfl
@[simp] theorem State.log_cmds (x : PortItem) (s : State) : (s.log x).cmds = s.cmds := rfl
@[simp] theorem State.log_answers (x : PortItem) (s : State) : (s.log x).answers = s.answers := rfl
@[simp] theorem State.log_takes (x : PortItem) (s : State) : (s.log x).takes = s.takes := rfl
@[simp] theorem State.log_rst (x : PortItem) (s : State) : (s.log x).rst = s.rst := rfl
@[simp] theorem State.log_trace (x : PortItem) (s : State) : (s.log x).trace = s.trace ++ [x] := rfl
@[simp] theorem State.log_draws (x : PortItem) (s : State) : (s.log x).draws = s.draws := rfl

/-! ## `retire` -/

@[simp] theorem State.retire_phase (s : State) : s.retire.phase = s.phase := rfl
@[simp] theorem State.retire_regs (s : State) : s.retire.regs = deadRegs s.draws := rfl
@[simp] theorem State.retire_par (s : State) : s.retire.par = s.par := rfl
@[simp] theorem State.retire_cmds (s : State) : s.retire.cmds = s.cmds := rfl
@[simp] theorem State.retire_answers (s : State) : s.retire.answers = s.answers := rfl
@[simp] theorem State.retire_takes (s : State) : s.retire.takes = s.takes := rfl
@[simp] theorem State.retire_rst (s : State) : s.retire.rst = s.rst := rfl
@[simp] theorem State.retire_trace (s : State) : s.retire.trace = s.trace := rfl
@[simp] theorem State.retire_draws (s : State) : s.retire.draws = s.draws + 1 := rfl

/-! ## `applyReset` -/

@[simp] theorem State.applyReset_phase (s : State) : s.applyReset.phase = .idle := rfl
@[simp] theorem State.applyReset_regs (s : State) : s.applyReset.regs = deadRegs s.draws := rfl
@[simp] theorem State.applyReset_par (s : State) : s.applyReset.par = s.par := rfl
@[simp] theorem State.applyReset_cmds (s : State) : s.applyReset.cmds = s.cmds := rfl
@[simp] theorem State.applyReset_answers (s : State) : s.applyReset.answers = s.answers := rfl
@[simp] theorem State.applyReset_takes (s : State) : s.applyReset.takes = s.takes := rfl
@[simp] theorem State.applyReset_rst (s : State) : s.applyReset.rst = false := rfl
@[simp] theorem State.applyReset_trace (s : State) : s.applyReset.trace = s.trace := rfl
@[simp] theorem State.applyReset_draws (s : State) : s.applyReset.draws = s.draws + 1 := rfl

/-! ## `assertReset` -/

@[simp] theorem State.assertReset_phase (s : State) : s.assertReset.phase = s.phase := rfl
@[simp] theorem State.assertReset_regs (s : State) : s.assertReset.regs = s.regs := rfl
@[simp] theorem State.assertReset_par (s : State) : s.assertReset.par = s.par := rfl
@[simp] theorem State.assertReset_cmds (s : State) : s.assertReset.cmds = s.cmds := rfl
@[simp] theorem State.assertReset_answers (s : State) : s.assertReset.answers = s.answers := rfl
@[simp] theorem State.assertReset_takes (s : State) : s.assertReset.takes = s.takes := rfl
@[simp] theorem State.assertReset_rst (s : State) : s.assertReset.rst = true := rfl
@[simp] theorem State.assertReset_trace (s : State) : s.assertReset.trace = s.trace := rfl
@[simp] theorem State.assertReset_draws (s : State) : s.assertReset.draws = s.draws := rfl

/-! ## `offer` -/

@[simp] theorem State.offer_phase (w : Command) (s : State) : (s.offer w).phase = s.phase := rfl
@[simp] theorem State.offer_regs (w : Command) (s : State) : (s.offer w).regs = s.regs := rfl
@[simp] theorem State.offer_par (w : Command) (s : State) : (s.offer w).par = s.par := rfl
@[simp] theorem State.offer_cmds (w : Command) (s : State) : (s.offer w).cmds = s.cmds ++ [w] := rfl
@[simp] theorem State.offer_answers (w : Command) (s : State) : (s.offer w).answers = s.answers := rfl
@[simp] theorem State.offer_takes (w : Command) (s : State) : (s.offer w).takes = s.takes := rfl
@[simp] theorem State.offer_rst (w : Command) (s : State) : (s.offer w).rst = s.rst := rfl
@[simp] theorem State.offer_trace (w : Command) (s : State) : (s.offer w).trace = s.trace := rfl
@[simp] theorem State.offer_draws (w : Command) (s : State) : (s.offer w).draws = s.draws := rfl

/-! ## `giveAnswer` -/

@[simp] theorem State.giveAnswer_phase (a : Answer) (s : State) : (s.giveAnswer a).phase = s.phase := rfl
@[simp] theorem State.giveAnswer_regs (a : Answer) (s : State) : (s.giveAnswer a).regs = s.regs := rfl
@[simp] theorem State.giveAnswer_par (a : Answer) (s : State) : (s.giveAnswer a).par = s.par := rfl
@[simp] theorem State.giveAnswer_cmds (a : Answer) (s : State) : (s.giveAnswer a).cmds = s.cmds := rfl
@[simp] theorem State.giveAnswer_answers (a : Answer) (s : State) : (s.giveAnswer a).answers = s.answers ++ [a] := rfl
@[simp] theorem State.giveAnswer_takes (a : Answer) (s : State) : (s.giveAnswer a).takes = s.takes := rfl
@[simp] theorem State.giveAnswer_rst (a : Answer) (s : State) : (s.giveAnswer a).rst = s.rst := rfl
@[simp] theorem State.giveAnswer_trace (a : Answer) (s : State) : (s.giveAnswer a).trace = s.trace := rfl
@[simp] theorem State.giveAnswer_draws (a : Answer) (s : State) : (s.giveAnswer a).draws = s.draws := rfl

/-! ## `sinkReady` -/

@[simp] theorem State.sinkReady_phase (n : Nat) (s : State) : (s.sinkReady n).phase = s.phase := rfl
@[simp] theorem State.sinkReady_regs (n : Nat) (s : State) : (s.sinkReady n).regs = s.regs := rfl
@[simp] theorem State.sinkReady_par (n : Nat) (s : State) : (s.sinkReady n).par = s.par := rfl
@[simp] theorem State.sinkReady_cmds (n : Nat) (s : State) : (s.sinkReady n).cmds = s.cmds := rfl
@[simp] theorem State.sinkReady_answers (n : Nat) (s : State) : (s.sinkReady n).answers = s.answers := rfl
@[simp] theorem State.sinkReady_takes (n : Nat) (s : State) : (s.sinkReady n).takes = s.takes + n := rfl
@[simp] theorem State.sinkReady_rst (n : Nat) (s : State) : (s.sinkReady n).rst = s.rst := rfl
@[simp] theorem State.sinkReady_trace (n : Nat) (s : State) : (s.sinkReady n).trace = s.trace := rfl
@[simp] theorem State.sinkReady_draws (n : Nat) (s : State) : (s.sinkReady n).draws = s.draws := rfl

/-! ## `latchWord` -/

@[simp] theorem State.latchWord_phase (w : Command) (s : State) : (s.latchWord w).phase = s.phase := rfl
@[simp] theorem State.latchWord_par (w : Command) (s : State) : (s.latchWord w).par = s.par := rfl
@[simp] theorem State.latchWord_cmds (w : Command) (s : State) : (s.latchWord w).cmds = s.cmds := rfl
@[simp] theorem State.latchWord_answers (w : Command) (s : State) : (s.latchWord w).answers = s.answers := rfl
@[simp] theorem State.latchWord_takes (w : Command) (s : State) : (s.latchWord w).takes = s.takes := rfl
@[simp] theorem State.latchWord_rst (w : Command) (s : State) : (s.latchWord w).rst = s.rst := rfl
@[simp] theorem State.latchWord_trace (w : Command) (s : State) : (s.latchWord w).trace = s.trace := rfl
@[simp] theorem State.latchWord_draws (w : Command) (s : State) : (s.latchWord w).draws = s.draws := rfl
@[simp] theorem State.latchWord_regs (w : Command) (s : State) : (s.latchWord w).regs = { s.regs with
    op := commandOp w, hp := w.getLsbD 55, hi := w.getLsbD 54, len := w.extractLsb' 0 16,
    opb := w.extractLsb' 0 48, opcfg := w.extractLsb' 56 6 } := rfl

end Sys2Proof.Machine
end

