-- ==== Sys2Proof/Laws/Ops.lean ====
section
/-! SUPPORT. One lemma for each shared operation that says once everything it can do; later proofs cite these instead of
unfolding the operations. -/

namespace Sys2Proof.Machine

/-! ## Ending an operation -/

/-- Everything `finish` does. -/
theorem finish_eq_ended (v : Status) (n : Option (BitVec 6)) (c : Option CfgWord) (rs : List Record) (s : State) :
    finish v n c rs s = ended s [.completion ⟨v, n, c, rs⟩] s.answers s.takes := rfl

/-- Everything `raise` does (R186). -/
theorem raise_eq_ended (e : ErrorKind) (s : State) : raise e s = ended s [errorItem e] s.answers s.takes := rfl

@[simp] theorem ended_phase (s : State) (l as n) : (ended s l as n).phase = .idle := rfl
@[simp] theorem ended_regs (s : State) (l as n) : (ended s l as n).regs = deadRegs s.draws := rfl
@[simp] theorem ended_par (s : State) (l as n) : (ended s l as n).par = s.par := rfl
@[simp] theorem ended_cmds (s : State) (l as n) : (ended s l as n).cmds = s.cmds := rfl
@[simp] theorem ended_answers (s : State) (l as n) : (ended s l as n).answers = as := rfl
@[simp] theorem ended_takes (s : State) (l as n) : (ended s l as n).takes = n := rfl
@[simp] theorem ended_rst (s : State) (l as n) : (ended s l as n).rst = s.rst := rfl
@[simp] theorem ended_trace (s : State) (l as n) : (ended s l as n).trace = s.trace ++ l := rfl
@[simp] theorem ended_draws (s : State) (l as n) : (ended s l as n).draws = s.draws + 1 := rfl

/-! ## What has passed at the ports -/

/-- What passed is the part of the later trace past the earlier one. -/
theorem passed_of_append {s t : State} {l : List PortItem} (h : t.trace = s.trace ++ l) : passed s t = l := by
  simp [passed, h]

@[simp] theorem requestsIn_append (l m : List PortItem) : requestsIn (l ++ m) = requestsIn l ++ requestsIn m := by
  simp [requestsIn]

@[simp] theorem eventsIn_append (l m : List PortItem) : eventsIn (l ++ m) = eventsIn l ++ eventsIn m := by
  simp [eventsIn]

@[simp] theorem completionsIn_append (l m : List PortItem) :
    completionsIn (l ++ m) = completionsIn l ++ completionsIn m := by
  simp [completionsIn]

@[simp] theorem requestsIn_nil : requestsIn [] = [] := rfl
@[simp] theorem eventsIn_nil : eventsIn [] = [] := rfl
@[simp] theorem completionsIn_nil : completionsIn [] = [] := rfl

@[simp] theorem requestsIn_request (r : Request) (l : List PortItem) :
    requestsIn (.request r :: l) = r :: requestsIn l := by simp [requestsIn]
@[simp] theorem requestsIn_event (k : BitVec 3) (l : List PortItem) : requestsIn (.event k :: l) = requestsIn l := by
  simp [requestsIn]
@[simp] theorem requestsIn_completion (c : Completion) (l : List PortItem) :
    requestsIn (.completion c :: l) = requestsIn l := by simp [requestsIn]
@[simp] theorem eventsIn_request (r : Request) (l : List PortItem) : eventsIn (.request r :: l) = eventsIn l := by
  simp [eventsIn]
@[simp] theorem eventsIn_event (k : BitVec 3) (l : List PortItem) :
    eventsIn (.event k :: l) = k :: eventsIn l := by simp [eventsIn]
@[simp] theorem eventsIn_completion (c : Completion) (l : List PortItem) :
    eventsIn (.completion c :: l) = eventsIn l := by simp [eventsIn]
@[simp] theorem completionsIn_request (r : Request) (l : List PortItem) :
    completionsIn (.request r :: l) = completionsIn l := by simp [completionsIn]
@[simp] theorem completionsIn_event (k : BitVec 3) (l : List PortItem) :
    completionsIn (.event k :: l) = completionsIn l := by simp [completionsIn]
@[simp] theorem completionsIn_completion (c : Completion) (l : List PortItem) :
    completionsIn (.completion c :: l) = c :: completionsIn l := by simp [completionsIn]

/-! ## The argument checks and the answers -/

/-- The checks pass exactly when the handle is good and a `READ` asks for something. -/
theorem checkFailure_eq_none {r : Regs} :
    checkFailure r = none ↔ r.hp = true ∧ r.hi = true ∧ (r.op = .read → r.len ≠ 0) := by
  unfold checkFailure
  cases r.hp <;> cases r.hi <;> by_cases h : r.op = .read ∧ r.len = 0 <;> simp_all

/-- Everything `checked` can do. -/
theorem checked_cases (s : State) (k : State → Out) :
    (∃ e, checkFailure s.regs = some e ∧ checked s k = .next (raise e s)) ∨
    (checkFailure s.regs = none ∧ checked s k = k s) := by
  unfold checked
  cases h : checkFailure s.regs with
  | none => exact .inr ⟨rfl, rfl⟩
  | some e => exact .inl ⟨e, rfl, rfl⟩

/-- No answer: the block waits (R67). -/
theorem onAnswer_nil {n : Nat} {s : State} {k : List Byte → State → Out} (h : s.answers = []) :
    onAnswer n s k = .next s := by simp [onAnswer, h]

/-- A failed answer (R66). -/
theorem onAnswer_fail {n : Nat} {s : State} {k : List Byte → State → Out} {as : List Answer}
    (h : s.answers = .fail :: as) : onAnswer n s k = .next (raise .transportError (s.setAnswers as)) := by
  simp [onAnswer, h]

/-- An answer of the length asked. -/
theorem onAnswer_ok {n : Nat} {s : State} {k : List Byte → State → Out} {bs : List Byte} {as : List Answer}
    (h : s.answers = .ok bs :: as) (hn : bs.length = n) : onAnswer n s k = k bs (s.setAnswers as) := by
  simp [onAnswer, h, hn]

/-- Everything `onAnswer` can do. -/
theorem onAnswer_cases (n : Nat) (s : State) (k : List Byte → State → Out) :
    (s.answers = [] ∧ onAnswer n s k = .next s) ∨
    (∃ as, s.answers = .fail :: as ∧ onAnswer n s k = .next (raise .transportError (s.setAnswers as))) ∨
    (∃ bs as, s.answers = .ok bs :: as ∧ bs.length = n ∧ onAnswer n s k = k bs (s.setAnswers as)) ∨
    (∃ bs as, s.answers = .ok bs :: as ∧ bs.length ≠ n ∧ onAnswer n s k = .refused (.answerLength n bs.length)) := by
  match h : s.answers with
  | [] => exact .inl ⟨rfl, onAnswer_nil h⟩
  | .fail :: as => exact .inr (.inl ⟨as, rfl, onAnswer_fail h⟩)
  | .ok bs :: as =>
    by_cases hn : bs.length = n
    · exact .inr (.inr (.inl ⟨bs, as, rfl, hn, onAnswer_ok h hn⟩))
    · exact .inr (.inr (.inr ⟨bs, as, rfl, hn, by simp [onAnswer, h, hn]⟩))

/-! ## Requests -/

@[simp] theorem ask_phase (p : Phase) (r : Request) (s : State) : (ask p r s).phase = p := rfl
@[simp] theorem ask_regs (p : Phase) (r : Request) (s : State) : (ask p r s).regs = s.regs := rfl
@[simp] theorem ask_par (p : Phase) (r : Request) (s : State) : (ask p r s).par = s.par := rfl
@[simp] theorem ask_cmds (p : Phase) (r : Request) (s : State) : (ask p r s).cmds = s.cmds := rfl
@[simp] theorem ask_answers (p : Phase) (r : Request) (s : State) : (ask p r s).answers = s.answers := rfl
@[simp] theorem ask_takes (p : Phase) (r : Request) (s : State) : (ask p r s).takes = s.takes := rfl
@[simp] theorem ask_rst (p : Phase) (r : Request) (s : State) : (ask p r s).rst = s.rst := rfl
@[simp] theorem ask_trace (p : Phase) (r : Request) (s : State) : (ask p r s).trace = s.trace ++ [.request r] := rfl
@[simp] theorem ask_draws (p : Phase) (r : Request) (s : State) : (ask p r s).draws = s.draws := rfl

@[simp] theorem askFifoCtl_phase (s : State) : (askFifoCtl s).phase = .res0 := rfl
@[simp] theorem askFifoCtl_regs (s : State) : (askFifoCtl s).regs = s.regs := rfl
@[simp] theorem askFifoCtl_par (s : State) : (askFifoCtl s).par = s.par := rfl
@[simp] theorem askFifoCtl_cmds (s : State) : (askFifoCtl s).cmds = s.cmds := rfl
@[simp] theorem askFifoCtl_answers (s : State) : (askFifoCtl s).answers = s.answers := rfl
@[simp] theorem askFifoCtl_takes (s : State) : (askFifoCtl s).takes = s.takes := rfl
@[simp] theorem askFifoCtl_rst (s : State) : (askFifoCtl s).rst = s.rst := rfl
@[simp] theorem askFifoCtl_trace (s : State) : (askFifoCtl s).trace = s.trace ++ [.request (reqFifoCtl s.par)] := rfl
@[simp] theorem askFifoCtl_draws (s : State) : (askFifoCtl s).draws = s.draws := rfl

@[simp] theorem askDataFormat_phase (s : State) : (askDataFormat s).phase = .res1 := rfl
@[simp] theorem askDataFormat_regs (s : State) : (askDataFormat s).regs = s.regs := rfl
@[simp] theorem askDataFormat_par (s : State) : (askDataFormat s).par = s.par := rfl
@[simp] theorem askDataFormat_cmds (s : State) : (askDataFormat s).cmds = s.cmds := rfl
@[simp] theorem askDataFormat_answers (s : State) : (askDataFormat s).answers = s.answers := rfl
@[simp] theorem askDataFormat_takes (s : State) : (askDataFormat s).takes = s.takes := rfl
@[simp] theorem askDataFormat_rst (s : State) : (askDataFormat s).rst = s.rst := rfl
@[simp] theorem askDataFormat_trace (s : State) : (askDataFormat s).trace = s.trace ++ [.request (reqDataFormat s.par)] := rfl
@[simp] theorem askDataFormat_draws (s : State) : (askDataFormat s).draws = s.draws := rfl

@[simp] theorem askFifoStatus_phase (s : State) : (askFifoStatus s).phase = .stat := rfl
@[simp] theorem askFifoStatus_regs (s : State) : (askFifoStatus s).regs = s.regs := rfl
@[simp] theorem askFifoStatus_par (s : State) : (askFifoStatus s).par = s.par := rfl
@[simp] theorem askFifoStatus_cmds (s : State) : (askFifoStatus s).cmds = s.cmds := rfl
@[simp] theorem askFifoStatus_answers (s : State) : (askFifoStatus s).answers = s.answers := rfl
@[simp] theorem askFifoStatus_takes (s : State) : (askFifoStatus s).takes = s.takes := rfl
@[simp] theorem askFifoStatus_rst (s : State) : (askFifoStatus s).rst = s.rst := rfl
@[simp] theorem askFifoStatus_trace (s : State) : (askFifoStatus s).trace = s.trace ++ [.request (reqFifoStatus s.par)] := rfl
@[simp] theorem askFifoStatus_draws (s : State) : (askFifoStatus s).draws = s.draws := rfl

@[simp] theorem askBurst_phase (s : State) : (askBurst s).phase = .burst := rfl
@[simp] theorem askBurst_regs (s : State) : (askBurst s).regs = s.regs := rfl
@[simp] theorem askBurst_par (s : State) : (askBurst s).par = s.par := rfl
@[simp] theorem askBurst_cmds (s : State) : (askBurst s).cmds = s.cmds := rfl
@[simp] theorem askBurst_answers (s : State) : (askBurst s).answers = s.answers := rfl
@[simp] theorem askBurst_takes (s : State) : (askBurst s).takes = s.takes := rfl
@[simp] theorem askBurst_rst (s : State) : (askBurst s).rst = s.rst := rfl
@[simp] theorem askBurst_trace (s : State) : (askBurst s).trace = s.trace ++ [.request (reqBurst s.par s.regs.alen)] := rfl
@[simp] theorem askBurst_draws (s : State) : (askBurst s).draws = s.draws := rfl

@[simp] theorem askIntSource_phase (s : State) : (askIntSource s).phase = .srcrd := rfl
@[simp] theorem askIntSource_regs (s : State) : (askIntSource s).regs = s.regs := rfl
@[simp] theorem askIntSource_par (s : State) : (askIntSource s).par = s.par := rfl
@[simp] theorem askIntSource_cmds (s : State) : (askIntSource s).cmds = s.cmds := rfl
@[simp] theorem askIntSource_answers (s : State) : (askIntSource s).answers = s.answers := rfl
@[simp] theorem askIntSource_takes (s : State) : (askIntSource s).takes = s.takes := rfl
@[simp] theorem askIntSource_rst (s : State) : (askIntSource s).rst = s.rst := rfl
@[simp] theorem askIntSource_trace (s : State) : (askIntSource s).trace = s.trace ++ [.request (reqIntSource s.par)] := rfl
@[simp] theorem askIntSource_draws (s : State) : (askIntSource s).draws = s.draws := rfl

/-! ## `BUF` and `RES` -/

/-- Byte `k` of `BUF` after a write from its start. -/
theorem writeBuf_getElem? (buf : Vector Byte bufBytes) (bs : List Byte) (h : bs.length ≤ bufBytes) (k : Nat) :
    (writeBuf buf bs).toList[k]? = if k < bs.length then bs[k]? else buf.toList[k]? := by
  have hl : buf.toList.length = bufBytes := by simp
  have ht : (writeBuf buf bs).toList = (bs ++ buf.toList.drop bs.length).take bufBytes := rfl
  rw [ht, List.getElem?_take]
  by_cases hk : k < bs.length
  · have : k < bufBytes := by omega
    simp [hk, this, List.getElem?_append_left hk]
  · by_cases hb : k < bufBytes
    · simp only [hb, if_true, hk, if_false]
      rw [List.getElem?_append_right (by omega), List.getElem?_drop]
      congr 1
      omega
    · simp only [hb, hk, if_false]
      exact (List.getElem?_eq_none (by omega)).symm

/-- Byte `k` of `BUF` after a write that covers it. -/
theorem bufByte_writeBuf {buf : Vector Byte bufBytes} {bs : List Byte} {k : Nat} (h : bs.length ≤ bufBytes)
    (hk : k < bs.length) : bufByte (writeBuf buf bs) k = bs.getD k 0 := by
  have := writeBuf_getElem? buf bs h k
  simp only [hk, if_true] at this
  simp [bufByte, List.getD_eq_getElem?_getD, this]

/-- A record of `BUF` after a write that covers it is the record of the bytes written. -/
theorem bufRecord_writeBuf {buf : Vector Byte bufBytes} {bs : List Byte} {i : Nat} (h : bs.length ≤ bufBytes)
    (hi : 6 * i + 5 < bs.length) : bufRecord (writeBuf buf bs) i = answerRecord bs i := by
  simp only [bufRecord, answerRecord]
  congr 1 <;> exact bufByte_writeBuf h (by omega)

/-! ## The decode -/

/-- Everything `decodeInto` does: the four writes hold the decode of the record. -/
theorem decodeInto_eq (i : Nat) (s : State) :
    decodeInto i s = { s with regs := { s.regs with
      raw := (decodeOne s.par s.regs.cfg (bufRecord s.regs.buf i)).raw
      cor := (decodeOne s.par s.regs.cfg (bufRecord s.regs.buf i)).cor
      g := (decodeOne s.par s.regs.cfg (bufRecord s.regs.buf i)).g
      res := s.regs.res.setIfInBounds i (decodeOne s.par s.regs.cfg (bufRecord s.regs.buf i)) } } := rfl

/-- Everything one pass of the decode loop does. -/
theorem decodeNext_eq (s : State) :
    decodeNext s = (decodeInto s.regs.idx.toNat s).setIdx (s.regs.idx + 1) := rfl

/-! ## What an answer, a decode and an event leave alone -/

@[simp] theorem gotFifoCtl_phase (bs : List Byte) (s : State) : (gotFifoCtl bs s).phase = s.phase := rfl
@[simp] theorem gotFifoCtl_par (bs : List Byte) (s : State) : (gotFifoCtl bs s).par = s.par := rfl
@[simp] theorem gotFifoCtl_cmds (bs : List Byte) (s : State) : (gotFifoCtl bs s).cmds = s.cmds := rfl
@[simp] theorem gotFifoCtl_answers (bs : List Byte) (s : State) : (gotFifoCtl bs s).answers = s.answers := rfl
@[simp] theorem gotFifoCtl_takes (bs : List Byte) (s : State) : (gotFifoCtl bs s).takes = s.takes := rfl
@[simp] theorem gotFifoCtl_rst (bs : List Byte) (s : State) : (gotFifoCtl bs s).rst = s.rst := rfl
@[simp] theorem gotFifoCtl_trace (bs : List Byte) (s : State) : (gotFifoCtl bs s).trace = s.trace := rfl
@[simp] theorem gotFifoCtl_draws (bs : List Byte) (s : State) : (gotFifoCtl bs s).draws = s.draws := rfl

@[simp] theorem gotDataFormat_phase (bs : List Byte) (s : State) : (gotDataFormat bs s).phase = s.phase := rfl
@[simp] theorem gotDataFormat_par (bs : List Byte) (s : State) : (gotDataFormat bs s).par = s.par := rfl
@[simp] theorem gotDataFormat_cmds (bs : List Byte) (s : State) : (gotDataFormat bs s).cmds = s.cmds := rfl
@[simp] theorem gotDataFormat_answers (bs : List Byte) (s : State) : (gotDataFormat bs s).answers = s.answers := rfl
@[simp] theorem gotDataFormat_takes (bs : List Byte) (s : State) : (gotDataFormat bs s).takes = s.takes := rfl
@[simp] theorem gotDataFormat_rst (bs : List Byte) (s : State) : (gotDataFormat bs s).rst = s.rst := rfl
@[simp] theorem gotDataFormat_trace (bs : List Byte) (s : State) : (gotDataFormat bs s).trace = s.trace := rfl
@[simp] theorem gotDataFormat_draws (bs : List Byte) (s : State) : (gotDataFormat bs s).draws = s.draws := rfl

@[simp] theorem gotFifoStatus_phase (bs : List Byte) (s : State) : (gotFifoStatus bs s).phase = s.phase := rfl
@[simp] theorem gotFifoStatus_par (bs : List Byte) (s : State) : (gotFifoStatus bs s).par = s.par := rfl
@[simp] theorem gotFifoStatus_cmds (bs : List Byte) (s : State) : (gotFifoStatus bs s).cmds = s.cmds := rfl
@[simp] theorem gotFifoStatus_answers (bs : List Byte) (s : State) : (gotFifoStatus bs s).answers = s.answers := rfl
@[simp] theorem gotFifoStatus_takes (bs : List Byte) (s : State) : (gotFifoStatus bs s).takes = s.takes := rfl
@[simp] theorem gotFifoStatus_rst (bs : List Byte) (s : State) : (gotFifoStatus bs s).rst = s.rst := rfl
@[simp] theorem gotFifoStatus_trace (bs : List Byte) (s : State) : (gotFifoStatus bs s).trace = s.trace := rfl
@[simp] theorem gotFifoStatus_draws (bs : List Byte) (s : State) : (gotFifoStatus bs s).draws = s.draws := rfl

@[simp] theorem gotBurst_phase (bs : List Byte) (s : State) : (gotBurst bs s).phase = .dec := rfl
@[simp] theorem gotBurst_par (bs : List Byte) (s : State) : (gotBurst bs s).par = s.par := rfl
@[simp] theorem gotBurst_cmds (bs : List Byte) (s : State) : (gotBurst bs s).cmds = s.cmds := rfl
@[simp] theorem gotBurst_answers (bs : List Byte) (s : State) : (gotBurst bs s).answers = s.answers := rfl
@[simp] theorem gotBurst_takes (bs : List Byte) (s : State) : (gotBurst bs s).takes = s.takes := rfl
@[simp] theorem gotBurst_rst (bs : List Byte) (s : State) : (gotBurst bs s).rst = s.rst := rfl
@[simp] theorem gotBurst_trace (bs : List Byte) (s : State) : (gotBurst bs s).trace = s.trace := rfl
@[simp] theorem gotBurst_draws (bs : List Byte) (s : State) : (gotBurst bs s).draws = s.draws := rfl

@[simp] theorem gotIntSource_phase (bs : List Byte) (s : State) : (gotIntSource bs s).phase = .scan := rfl
@[simp] theorem gotIntSource_par (bs : List Byte) (s : State) : (gotIntSource bs s).par = s.par := rfl
@[simp] theorem gotIntSource_cmds (bs : List Byte) (s : State) : (gotIntSource bs s).cmds = s.cmds := rfl
@[simp] theorem gotIntSource_answers (bs : List Byte) (s : State) : (gotIntSource bs s).answers = s.answers := rfl
@[simp] theorem gotIntSource_takes (bs : List Byte) (s : State) : (gotIntSource bs s).takes = s.takes := rfl
@[simp] theorem gotIntSource_rst (bs : List Byte) (s : State) : (gotIntSource bs s).rst = s.rst := rfl
@[simp] theorem gotIntSource_trace (bs : List Byte) (s : State) : (gotIntSource bs s).trace = s.trace := rfl
@[simp] theorem gotIntSource_draws (bs : List Byte) (s : State) : (gotIntSource bs s).draws = s.draws := rfl

@[simp] theorem decodeInto_phase (i : Nat) (s : State) : (decodeInto i s).phase = s.phase := by rw [decodeInto_eq]
@[simp] theorem decodeInto_par (i : Nat) (s : State) : (decodeInto i s).par = s.par := by rw [decodeInto_eq]
@[simp] theorem decodeInto_cmds (i : Nat) (s : State) : (decodeInto i s).cmds = s.cmds := by rw [decodeInto_eq]
@[simp] theorem decodeInto_answers (i : Nat) (s : State) : (decodeInto i s).answers = s.answers := by rw [decodeInto_eq]
@[simp] theorem decodeInto_takes (i : Nat) (s : State) : (decodeInto i s).takes = s.takes := by rw [decodeInto_eq]
@[simp] theorem decodeInto_rst (i : Nat) (s : State) : (decodeInto i s).rst = s.rst := by rw [decodeInto_eq]
@[simp] theorem decodeInto_trace (i : Nat) (s : State) : (decodeInto i s).trace = s.trace := by rw [decodeInto_eq]
@[simp] theorem decodeInto_draws (i : Nat) (s : State) : (decodeInto i s).draws = s.draws := by rw [decodeInto_eq]

@[simp] theorem decodeNext_phase (s : State) : (decodeNext s).phase = s.phase := by simp [decodeNext_eq]
@[simp] theorem decodeNext_par (s : State) : (decodeNext s).par = s.par := by simp [decodeNext_eq]
@[simp] theorem decodeNext_cmds (s : State) : (decodeNext s).cmds = s.cmds := by simp [decodeNext_eq]
@[simp] theorem decodeNext_answers (s : State) : (decodeNext s).answers = s.answers := by simp [decodeNext_eq]
@[simp] theorem decodeNext_takes (s : State) : (decodeNext s).takes = s.takes := by simp [decodeNext_eq]
@[simp] theorem decodeNext_rst (s : State) : (decodeNext s).rst = s.rst := by simp [decodeNext_eq]
@[simp] theorem decodeNext_trace (s : State) : (decodeNext s).trace = s.trace := by simp [decodeNext_eq]
@[simp] theorem decodeNext_draws (s : State) : (decodeNext s).draws = s.draws := by simp [decodeNext_eq]

@[simp] theorem present_phase (k : BitVec 3) (s : State) : (present k s).phase = .emit := rfl
@[simp] theorem present_par (k : BitVec 3) (s : State) : (present k s).par = s.par := rfl
@[simp] theorem present_cmds (k : BitVec 3) (s : State) : (present k s).cmds = s.cmds := rfl
@[simp] theorem present_answers (k : BitVec 3) (s : State) : (present k s).answers = s.answers := rfl
@[simp] theorem present_takes (k : BitVec 3) (s : State) : (present k s).takes = s.takes := rfl
@[simp] theorem present_rst (k : BitVec 3) (s : State) : (present k s).rst = s.rst := rfl
@[simp] theorem present_trace (k : BitVec 3) (s : State) : (present k s).trace = s.trace := rfl
@[simp] theorem present_draws (k : BitVec 3) (s : State) : (present k s).draws = s.draws := rfl

@[simp] theorem taken_phase (s : State) : (taken s).phase = .scan := rfl
@[simp] theorem taken_par (s : State) : (taken s).par = s.par := rfl
@[simp] theorem taken_cmds (s : State) : (taken s).cmds = s.cmds := rfl
@[simp] theorem taken_answers (s : State) : (taken s).answers = s.answers := rfl
@[simp] theorem taken_takes (s : State) : (taken s).takes = s.takes - 1 := rfl
@[simp] theorem taken_rst (s : State) : (taken s).rst = s.rst := rfl
@[simp] theorem taken_trace (s : State) : (taken s).trace = s.trace ++ [.event s.regs.k] := rfl
@[simp] theorem taken_draws (s : State) : (taken s).draws = s.draws := rfl

@[simp] theorem gotFifoCtl_regs (bs : List Byte) (s : State) :
    (gotFifoCtl bs s).regs = { s.regs with cfg := cfgWithMode s.regs.cfg (firstByte bs) } := rfl
@[simp] theorem gotDataFormat_regs (bs : List Byte) (s : State) :
    (gotDataFormat bs s).regs = { s.regs with cfg := cfgWithFormat s.regs.cfg (firstByte bs) } := rfl
@[simp] theorem gotFifoStatus_regs (bs : List Byte) (s : State) :
    (gotFifoStatus bs s).regs = { s.regs with
      cnt := fifoStatusCount (firstByte bs), alen := actualLen s.regs.len (fifoStatusCount (firstByte bs)) } := rfl
@[simp] theorem gotBurst_regs (bs : List Byte) (s : State) :
    (gotBurst bs s).regs = { s.regs with buf := writeBuf s.regs.buf bs, idx := 0 } := rfl
@[simp] theorem gotIntSource_regs (bs : List Byte) (s : State) :
    (gotIntSource bs s).regs = { s.regs with src := firstByte bs, pend := firstByte bs } := rfl
theorem decodeInto_regs (i : Nat) (s : State) :
    (decodeInto i s).regs = { s.regs with
      raw := (decodeOne s.par s.regs.cfg (bufRecord s.regs.buf i)).raw
      cor := (decodeOne s.par s.regs.cfg (bufRecord s.regs.buf i)).cor
      g := (decodeOne s.par s.regs.cfg (bufRecord s.regs.buf i)).g
      res := s.regs.res.setIfInBounds i (decodeOne s.par s.regs.cfg (bufRecord s.regs.buf i)) } := by
  rw [decodeInto_eq]
theorem decodeNext_regs (s : State) :
    (decodeNext s).regs = { (decodeInto s.regs.idx.toNat s).regs with idx := s.regs.idx + 1 } := by
  rw [decodeNext_eq]; rfl
@[simp] theorem present_regs (k : BitVec 3) (s : State) : (present k s).regs = { s.regs with k := k } := rfl
@[simp] theorem taken_regs (s : State) :
    (taken s).regs = { s.regs with pend := clearBit s.regs.pend s.regs.k } := rfl

/-! ## Settling -/

/-- A waiting block does not move. -/
theorem settle_of_waiting {n : Nat} {s : State} (h : s.waiting = true) : settle n s = .next s := by
  cases n <;> simp [settle, h]

/-- One transition of a block that does not wait. -/
theorem settle_succ {n : Nat} {s : State} (h : s.waiting = false) :
    settle (n + 1) s =
      match tick s with
      | .next t => settle n t
      | .fault r => .fault r
      | .refused r => .refused r := by
  rw [settle, h]
  rfl

/-- An invariant that every transition keeps is kept by settling: the induction, once. -/
theorem settle_induct {P : State → Prop} (hP : ∀ s t, P s → tick s = .next t → P t) {n : Nat} {s t : State}
    (hs : P s) (h : settle n s = .next t) : P t := by
  induction n generalizing s with
  | zero => simp only [settle] at h; cases h; exact hs
  | succ n ih =>
    by_cases hw : s.waiting = true
    · rw [settle_of_waiting hw] at h; cases h; exact hs
    · rw [settle_succ (by simpa using hw)] at h
      match ht : tick s with
      | .next u => rw [ht] at h; exact ih (hP s u hs ht) h
      | .fault r => rw [ht] at h; cases h
      | .refused r => rw [ht] at h; cases h

/-- A fault of settling is a fault of a transition from a state the invariant holds in. -/
theorem settle_fault {P : State → Prop} (hP : ∀ s t, P s → tick s = .next t → P t) {n : Nat} {s : State} {r : Fault}
    (hs : P s) (h : settle n s = .fault r) : ∃ u, P u ∧ tick u = .fault r := by
  induction n generalizing s with
  | zero => simp [settle] at h
  | succ n ih =>
    by_cases hw : s.waiting = true
    · rw [settle_of_waiting hw] at h; cases h
    · rw [settle_succ (by simpa using hw)] at h
      match ht : tick s with
      | .next u => rw [ht] at h; exact ih (hP s u hs ht) h
      | .fault r' => rw [ht] at h; cases h; exact ⟨s, hs, ht⟩
      | .refused r' => rw [ht] at h; cases h

/-- A refusal of settling is a refusal of a transition from a state the invariant holds in. -/
theorem settle_refused {P : State → Prop} (hP : ∀ s t, P s → tick s = .next t → P t) {n : Nat} {s : State}
    {r : Refusal} (hs : P s) (h : settle n s = .refused r) : ∃ u, P u ∧ tick u = .refused r := by
  induction n generalizing s with
  | zero => simp [settle] at h
  | succ n ih =>
    by_cases hw : s.waiting = true
    · rw [settle_of_waiting hw] at h; cases h
    · rw [settle_succ (by simpa using hw)] at h
      match ht : tick s with
      | .next u => rw [ht] at h; exact ih (hP s u hs ht) h
      | .fault r' => rw [ht] at h; cases h
      | .refused r' => rw [ht] at h; cases h; exact ⟨s, hs, ht⟩

end Sys2Proof.Machine
end

