-- ==== Sys2Proof/Laws/Operations.lean ====
section
/-! SUPPORT. What the shared pieces of the four operations do, one lemma each: the fields of words built by
concatenation, the resolver sequence, the burst with its decode loop, the event loop, and a step by its phase. -/

namespace Sys2Proof.Machine

/-! ## Fields of concatenations -/

/-- A field inside the low part. -/
theorem extract_append_low {w v : Nat} (a : BitVec w) (b : BitVec v) (i n : Nat) (h : i + n ≤ v) :
    (a ++ b).extractLsb' i n = b.extractLsb' i n := by
  apply BitVec.eq_of_getLsbD_eq
  intro j hj
  simp [BitVec.getLsbD_append, hj]
  intro h'
  omega

/-- A field inside the high part. -/
theorem extract_append_high {w v : Nat} (a : BitVec w) (b : BitVec v) (i n : Nat) (h : v ≤ i) :
    (a ++ b).extractLsb' i n = a.extractLsb' (i - v) n := by
  apply BitVec.eq_of_getLsbD_eq
  intro j hj
  have : ¬ i + j < v := by omega
  simp [BitVec.getLsbD_append, hj, this]
  congr 1
  omega

/-- The whole word as a field. -/
theorem extract_whole {w : Nat} (a : BitVec w) : a.extractLsb' 0 w = a := by
  apply BitVec.eq_of_getLsbD_eq
  intro j hj
  simp [hj]

/-- The six bytes of an operand built from six bytes. -/
theorem opbOf_bytes (b : Six) :
    (⟨(opbOf b).extractLsb' 0 8, (opbOf b).extractLsb' 8 8, (opbOf b).extractLsb' 16 8,
      (opbOf b).extractLsb' 24 8, (opbOf b).extractLsb' 32 8, (opbOf b).extractLsb' 40 8⟩ : Six) = b := by
  cases b
  congr 1 <;>
  · apply BitVec.eq_of_getLsbD_eq
    intro i hi
    simp only [opbOf, BitVec.getLsbD_extractLsb', BitVec.getLsbD_append]
    interval_cases i <;> simp

/-! ## The resolver sequence -/

/-- Both resolver writes, mode first (R102). -/
theorem cfgWithFormat_cfgWithMode (v : CfgWord) (c f : Byte) : cfgWithFormat (cfgWithMode v c) f = cfgOf c f := by
  apply BitVec.eq_of_getLsbD_eq
  intro i hi
  simp only [cfgWithFormat, cfgWithMode, cfgOf, fifoCtlMode, dataFormatFullResolution, dataFormatJustify,
    dataFormatRange, BitVec.getLsbD_append, BitVec.getLsbD_extractLsb']
  interval_cases i <;> simp

/-- Both resolver writes, format first (D7). -/
theorem cfgWithMode_cfgWithFormat (v : CfgWord) (c f : Byte) : cfgWithMode (cfgWithFormat v f) c = cfgOf c f := by
  apply BitVec.eq_of_getLsbD_eq
  intro i hi
  simp only [cfgWithFormat, cfgWithMode, cfgOf, fifoCtlMode, dataFormatFullResolution, dataFormatJustify,
    dataFormatRange, BitVec.getLsbD_append, BitVec.getLsbD_extractLsb']
  interval_cases i <;> simp

/-- `s` after the resolver sequence with both answers `ok`. -/
def afterResolver (s : State) (c f : Byte) (as : List Answer) : State :=
  { s with
    phase := match s.par.order with | .ctlFirst => .res1 | .fmtFirst => .res0
    trace := s.trace ++ resolverRequests s.par
    answers := as
    regs := { s.regs with cfg := cfgOf c f } }

/-- Everything the resolver sequence does when both reads succeed, in either order. -/
theorem resolveSeq_ok (s : State) (c f : Byte) (as : List Answer) (k : State → Out)
    (h : s.answers = resolverAnswers s.par c f ++ as) : resolveSeq s k = k (afterResolver s c f as) := by
  unfold resolveSeq
  cases ho : s.par.order <;> simp [resolverAnswers, ho] at h
  · simp only
    rw [onAnswer_ok (n := 1) (by simpa using h) rfl, onAnswer_ok (n := 1) (by rfl) rfl]
    congr 1
    simp [afterResolver, gotDataFormat, gotFifoCtl, askFifoCtl, askDataFormat, ask, State.setCfg, State.setAnswers,
      State.log, State.setPhase, firstByte, cfgWithFormat_cfgWithMode, ho, resolverRequests]
  · simp only
    rw [onAnswer_ok (n := 1) (by simpa using h) rfl, onAnswer_ok (n := 1) (by rfl) rfl]
    congr 1
    simp [afterResolver, gotDataFormat, gotFifoCtl, askFifoCtl, askDataFormat, ask, State.setCfg, State.setAnswers,
      State.log, State.setPhase, firstByte, cfgWithMode_cfgWithFormat, ho, resolverRequests]

/-! ## Lengths -/

/-- The burst length does not wrap (R116). -/
theorem burstLen_toNat (n : BitVec 6) : (burstLen n).toNat = 6 * n.toNat := by
  have := n.isLt
  simp [burstLen]
  omega

/-- `ALEN` is the minimum and does not wrap (R114). -/
theorem actualLen_eq (len : BitVec 16) (q : Byte) :
    actualLen len (fifoStatusCount q) = BitVec.ofNat 6 (min len.toNat (q.toNat % 64)) := by
  apply BitVec.eq_of_toNat_eq
  have h2 : ((q.extractLsb' 0 6).setWidth 16).toNat = q.toNat % 64 := by
    simp
    omega
  simp only [actualLen, minU, fifoStatusCount, h2]
  split_ifs with h
  · simp [Nat.min_eq_left h]
  · simp [Nat.min_eq_right (by omega : q.toNat % 64 ≤ len.toNat)]

/-! ## The burst and the decode loop -/

/-- What the decode loop leaves: nothing but registers changed, `ALEN` not among them, and the records decoded so far
are in `RES`. -/
theorem decodeRecords_res (n : Nat) (s : State) (bs : List Byte) (i0 : Nat) (hidx : s.regs.idx.toNat = i0)
    (hle : i0 + n ≤ 63) (hb : ∀ i, i < i0 + n → bufRecord s.regs.buf i = answerRecord bs i)
    (hr : ∀ i, i < i0 → s.regs.res.toList[i]? = some (decodeOne s.par s.regs.cfg (answerRecord bs i))) :
    ∃ r : Regs, decodeRecords n s = { s with regs := r } ∧ r.alen = s.regs.alen ∧
      ∀ i, i < i0 + n → r.res.toList[i]? = some (decodeOne s.par s.regs.cfg (answerRecord bs i)) := by
  induction n generalizing s i0 with
  | zero => exact ⟨s.regs, rfl, rfl, by simpa using hr⟩
  | succ n ih =>
    have e : decodeNext s = { s with regs := (decodeNext s).regs } := by
      simp [decodeNext, decodeInto_eq, State.setIdx]
    have h1 : (decodeNext s).regs.idx.toNat = i0 + 1 := by
      simp [decodeNext, decodeInto_eq, State.setIdx, hidx]
      omega
    have hcfg : (decodeNext s).regs.cfg = s.regs.cfg := by simp [decodeNext, decodeInto_eq, State.setIdx]
    obtain ⟨r, h2, h3, h4⟩ := ih (decodeNext s) (i0 + 1) h1 (by omega)
      (by intro i hi; simp only [decodeNext_regs, decodeInto_regs]; exact hb i (by omega)) (by
        intro i hi
        have hres : (decodeNext s).regs.res =
            s.regs.res.setIfInBounds i0 (decodeOne s.par s.regs.cfg (answerRecord bs i0)) := by
          simp only [decodeNext, decodeInto_eq, State.setIdx, hidx, hb i0 (by omega)]
        rw [hres, hcfg, decodeNext_par]
        by_cases hii : i = i0
        · subst hii
          simp
          rw [List.getElem?_set_self]
          rw [Vector.length_toList]
          unfold maxRec
          omega
        · simp
          rw [List.getElem?_set_ne (by omega)]
          exact hr i (by omega))
    refine ⟨r, ?_, by rw [h3]; simp [decodeNext, decodeInto_eq, State.setIdx], ?_⟩
    · simp only [decodeRecords]
      rw [h2, e]
    · intro i hi
      have := h4 i (by omega)
      rwa [hcfg, decodeNext_par] at this

/-- Everything the burst does when its read succeeds (R116, R117). -/
theorem readBurst_ok (s : State) (bs : List Byte) (as : List Answer) (n : Nat) (ha : s.answers = .ok bs :: as)
    (hn : s.regs.alen.toNat = n) (hl : bs.length = 6 * n) :
    readBurst s = .next (ended s [.request (reqBurst s.par s.regs.alen), .completion ⟨.ok, some s.regs.alen, none,
      (List.range n).map fun i => decodeOne s.par s.regs.cfg (answerRecord bs i)⟩] as s.takes) := by
  have hlt := s.regs.alen.isLt
  have hbl : bs.length ≤ bufBytes := by
    unfold bufBytes
    omega
  rw [readBurst, onAnswer_ok (by simpa using ha) (by rw [burstLen_toNat]; omega)]
  obtain ⟨r, h1, h2, h3⟩ := decodeRecords_res n (gotBurst bs ((askBurst s).setAnswers as)) bs 0 rfl (by omega)
    (by
      intro i hi
      have : (gotBurst bs ((askBurst s).setAnswers as)).regs.buf = writeBuf s.regs.buf bs := rfl
      rw [this]
      exact bufRecord_writeBuf hbl (by omega))
    (by intro i hi; omega)
  have e1 : ((askBurst s).setAnswers as).regs.alen = s.regs.alen := rfl
  rw [e1, hn, h1]
  have hrec : r.res.toList.take n = (List.range n).map fun i => decodeOne s.par s.regs.cfg (answerRecord bs i) := by
    apply List.ext_getElem?
    intro i
    rw [List.getElem?_take]
    by_cases hi : i < n
    · have := h3 i (by omega)
      simp [hi] at this ⊢
      exact this
    · simp [hi]
  have h2' : r.alen = s.regs.alen := h2
  simp [completeRead, finish, gotBurst, askBurst, ask, State.log, State.setPhase, State.setAnswers, State.setStatus,
    State.retire, ended, State.setIdx, State.loadBuf, h2', hn]
  simpa using hrec

/-! ## `DECODE` and `BUF` -/

/-- `DECODE` by the table of R47, where `READ` alone writes and reads `BUF`: the record comes straight from `OPB`. -/
def decodeDirect (s : State) : State :=
  let r := decodeOne s.par s.regs.opcfg ⟨opbByte s.regs.opb 0, opbByte s.regs.opb 1, opbByte s.regs.opb 2,
    opbByte s.regs.opb 3, opbByte s.regs.opb 4, opbByte s.regs.opb 5⟩
  let s := (((s.setCfg s.regs.opcfg).setRaw r.raw).setCor r.cor).setG r.g
  completeDecode (s.storeRecord 0)

/-- The pseudocode of R131, which goes through `BUF`, and the table of R47, which keeps `BUF` out of it, are the same
transition: from every state they give the same next state. -/
theorem decodeOperand_eq_decodeDirect (s : State) : decodeOperand s = decodeDirect s := by
  have hb : bufRecord (writeBuf s.regs.buf (opbBytes s.regs.opb)) 0 =
      ⟨opbByte s.regs.opb 0, opbByte s.regs.opb 1, opbByte s.regs.opb 2, opbByte s.regs.opb 3, opbByte s.regs.opb 4,
        opbByte s.regs.opb 5⟩ := by
    rw [bufRecord_writeBuf (by simp [opbBytes, bufBytes]) (by simp [opbBytes])]
    rfl
  simp only [decodeOperand, decodeDirect, completeDecode, finish_eq_ended, decodeInto_eq, State.loadBuf, State.setCfg,
    State.setRaw, State.setCor, State.setG, State.storeRecord, hb]
  rfl

/-- What `BUF` holds before a `DECODE` changes nothing in the next state. -/
theorem decodeOperand_buf (s : State) (b : Vector Byte bufBytes) :
    decodeOperand { s with regs := { s.regs with buf := b } } = decodeOperand s := by
  rw [decodeOperand_eq_decodeDirect, decodeOperand_eq_decodeDirect]
  rfl

/-! ## The event loop -/

/-- The priority encoder finds nothing only when there is nothing to send. -/
theorem eventsOf_of_highestBit_none : ∀ b : Byte, highestBit b = none → eventsOf b = [] := by decide +kernel

/-- The priority encoder and the clearing of its bit take the events one by one (R164). -/
theorem eventsOf_of_highestBit_some :
    ∀ (b : Byte) (k : BitVec 3), highestBit b = some k → eventsOf b = k :: eventsOf (clearBit b k) := by
  decide +kernel

/-- At most eight events (R166). -/
theorem eventsOf_length_lt : ∀ b : Byte, (eventsOf b).length < 9 := by decide +kernel

theorem emitPending_none {n : Nat} {s : State} (h : highestBit s.regs.pend = none) :
    emitPending (n + 1) s = completeDispatch s := by simp [emitPending, h]

theorem emitPending_hold {n : Nat} {s : State} {k : BitVec 3} (h : highestBit s.regs.pend = some k)
    (ht : s.takes = 0) : emitPending (n + 1) s = present k s := by simp [emitPending, h, ht]

theorem emitPending_take {n : Nat} {s : State} {k : BitVec 3} (h : highestBit s.regs.pend = some k)
    (ht : s.takes ≠ 0) : emitPending (n + 1) s = emitPending n (taken (present k s)) := by
  simp [emitPending, h, ht]

/-- Everything the event loop does when the sink takes every event (R161). -/
theorem emitPending_all (n : Nat) (s : State) (h : (eventsOf s.regs.pend).length < n)
    (ht : (eventsOf s.regs.pend).length ≤ s.takes) :
    emitPending n s = ended s ((eventsOf s.regs.pend).map PortItem.event ++ [.completion ⟨.ok, none, none, []⟩])
      s.answers (s.takes - (eventsOf s.regs.pend).length) := by
  induction n generalizing s with
  | zero => omega
  | succ n ih =>
    match hh : highestBit s.regs.pend with
    | none =>
      rw [emitPending_none hh, eventsOf_of_highestBit_none _ hh]
      rfl
    | some k =>
      have e := eventsOf_of_highestBit_some _ _ hh
      rw [e] at h ht
      simp at h ht
      rw [emitPending_take hh (by omega), ih _ (by simp; omega) (by simp; omega)]
      simp only [e]
      simp [ended]
      omega

/-- Everything the event loop does when the sink takes only some events: the next one stays presented (R165). -/
theorem emitPending_some (n : Nat) (s : State) (h : (eventsOf s.regs.pend).length < n)
    (ht : s.takes < (eventsOf s.regs.pend).length) :
    ∃ r : Regs, emitPending n s = { s with
        phase := .emit
        takes := 0
        trace := s.trace ++ ((eventsOf s.regs.pend).take s.takes).map PortItem.event
        regs := { s.regs with pend := r.pend, k := r.k } } ∧
      (eventsOf s.regs.pend)[s.takes]? = some r.k ∧ eventsOf r.pend = (eventsOf s.regs.pend).drop s.takes := by
  induction n generalizing s with
  | zero => omega
  | succ n ih =>
    match hh : highestBit s.regs.pend with
    | none =>
      rw [eventsOf_of_highestBit_none _ hh] at ht
      simp at ht
    | some k =>
      have e := eventsOf_of_highestBit_some _ _ hh
      by_cases h0 : s.takes = 0
      · refine ⟨{ s.regs with k := k }, ?_, by simp [e, h0], by simp [h0]⟩
        rw [emitPending_hold hh h0]
        simp [present, State.setK, State.setPhase, h0]
      · rw [e] at h ht
        simp at h ht
        obtain ⟨r, h1, h2, h3⟩ := ih (taken (present k s)) (by simp; omega) (by simp; omega)
        obtain ⟨m, hm⟩ : ∃ m, s.takes = m + 1 := ⟨s.takes - 1, by omega⟩
        refine ⟨r, ?_, by simp [e, hm] at h2 ⊢; exact h2, by simp [e, hm] at h3 ⊢; exact h3⟩
        rw [emitPending_take hh h0, h1]
        simp only [e]
        simp [hm]

/-! ## Acceptance -/

/-- Everything acceptance does to a word: the whole latch, and the phase (R24, R80, R169). -/
theorem accept_latchWord (w : Command) (s : State) :
    accept (decode w) (s.latchWord w) =
      (s.latchWord w).setPhase (if commandOp w = .decode then .dec else .chk) := by
  unfold decode commandOp State.latchWord commandOp
  cases w.getLsbD 63 <;> cases w.getLsbD 62 <;> rfl

/-! ## A step by its phase -/

/-- Reset comes first (R210). -/
theorem step_of_rst {s : State} (h : s.rst = true) : step s = .next s.applyReset := by simp [step, h]

/-- An idle block with no command stays as it is. -/
theorem step_of_idle_nil {s : State} (h : s.rst = false) (hp : s.phase = .idle) (hc : s.cmds = []) :
    step s = .next s := by simp [step, h, hp, hc]

/-- An idle block runs the command at its port. -/
theorem step_of_idle_cons {s : State} {w : Command} {rest : List Command} (h : s.rst = false)
    (hp : s.phase = .idle) (hc : s.cmds = w :: rest) : step s = exec (decode w) ((s.setCmds rest).latchWord w) := by
  simp [step, h, hp, hc]

/-- A busy block goes on with its operation. -/
theorem step_of_busy {s : State} (h : s.rst = false) (hp : s.phase ≠ .idle) : step s = settle settleBound s := by
  unfold step
  cases hq : s.phase <;> simp_all

end Sys2Proof.Machine
end

