-- ==== Sys2Proof/Laws/PerInstr.lean ====
section
/-! SUPPORT. Statements made for each instruction, one lemma per constructor. -/

namespace Sys2Proof.Laws

/-- The bits the opcode mask keeps. -/
theorem opcodeMask_getLsbD (i : Nat) : opcodeMask.getLsbD i = (i == 63 || i == 62) := by
  by_cases h : i < 64
  · have : ∀ j : Fin 64, opcodeMask.getLsbD j.val = (j.val == 63 || j.val == 62) := by decide
    exact this ⟨i, h⟩
  · rw [BitVec.getLsbD_of_ge _ _ (by omega)]
    have h1 : i ≠ 63 := by omega
    have h2 : i ≠ 62 := by omega
    simp [h1, h2]

/-- Two words whose operation bits agree are the same under the mask. -/
theorem and_opcodeMask {w m : Command} (h63 : w.getLsbD 63 = m.getLsbD 63) (h62 : w.getLsbD 62 = m.getLsbD 62) :
    w &&& opcodeMask = m &&& opcodeMask := by
  apply BitVec.eq_of_getLsbD_eq
  intro i _
  simp only [BitVec.getLsbD_and, opcodeMask_getLsbD]
  by_cases h1 : i = 63
  · rw [h1, h63]
  · by_cases h2 : i = 62
    · rw [h2, h62]
    · have h : (i == 63 || i == 62) = false := by
        rw [Bool.or_eq_false_iff, beq_eq_false_iff_ne, beq_eq_false_iff_ne]
        exact ⟨h1, h2⟩
      rw [h, Bool.and_false, Bool.and_false]

/-- What the decoder reads from a word depends, in its row, on the operation bits alone (R86). -/
theorem opcodeMatch_decode (w : Command) : opcodeMatch (decode w) = w &&& opcodeMask := by
  have key (m : Command) (h63 : w.getLsbD 63 = m.getLsbD 63) (h62 : w.getLsbD 62 = m.getLsbD 62)
      (hm : m &&& opcodeMask = m) : m = w &&& opcodeMask := by rw [and_opcodeMask h63 h62, hm]
  unfold decode
  cases h63 : w.getLsbD 63 <;> cases h62 : w.getLsbD 62
  · exact key 0x0000000000000000#64 (by rw [h63]; decide) (by rw [h62]; decide) (by decide)
  · exact key 0x4000000000000000#64 (by rw [h63]; decide) (by rw [h62]; decide) (by decide)
  · exact key 0x8000000000000000#64 (by rw [h63]; decide) (by rw [h62]; decide) (by decide)
  · exact key 0xC000000000000000#64 (by rw [h63]; decide) (by rw [h62]; decide) (by decide)

/-- R86: a command's own word matches its row of the opcode map, and every word that matches the row decodes to a
command of the row. -/
def OpcodeMap.Statement (i : Instr) : Prop :=
  encode i &&& opcodeMask = opcodeMatch i ∧
    ∀ w : Command, w &&& opcodeMask = opcodeMatch i → opcodeMatch (decode w) = opcodeMatch i

theorem OpcodeMap.resolve (h : Handle) : OpcodeMap.Statement (.resolve h) :=
  ⟨(and_opcodeMask (m := 0x0000000000000000#64) (by simp only [encode, BitVec.getLsbD_append]; rfl)
    (by simp only [encode, BitVec.getLsbD_append]; rfl)).trans (by rfl),
   fun w hw => (opcodeMatch_decode w).trans hw⟩

theorem OpcodeMap.read (h : Handle) (len : BitVec 16) : OpcodeMap.Statement (.read h len) :=
  ⟨(and_opcodeMask (m := 0x4000000000000000#64) (by simp only [encode, BitVec.getLsbD_append]; rfl)
    (by simp only [encode, BitVec.getLsbD_append]; rfl)).trans (by rfl),
   fun w hw => (opcodeMatch_decode w).trans hw⟩

theorem OpcodeMap.decode (opcfg : CfgWord) (opb : BitVec 48) : OpcodeMap.Statement (.decode opcfg opb) :=
  ⟨(and_opcodeMask (m := 0x8000000000000000#64) (by simp only [encode, BitVec.getLsbD_append]; rfl)
    (by simp only [encode, BitVec.getLsbD_append]; rfl)).trans (by rfl),
   fun w hw => (opcodeMatch_decode w).trans hw⟩

theorem OpcodeMap.dispatch (h : Handle) : OpcodeMap.Statement (.dispatch h) :=
  ⟨(and_opcodeMask (m := 0xC000000000000000#64) (by simp only [encode, BitVec.getLsbD_append]; rfl)
    (by simp only [encode, BitVec.getLsbD_append]; rfl)).trans (by rfl),
   fun w hw => (opcodeMatch_decode w).trans hw⟩

end Sys2Proof.Laws
end

