-- ==== Sys2Proof/Tests/Slice0.lean ====
section
/-! SUPPORT. Tests on single commands, with the spec's own vectors as expected results, and for every statement of
Certificates/Slice0/Obligations.lean that has hypotheses a witness that meets them. -/

namespace Sys2Proof.Tests

open Sys2Proof Sys2Proof.Machine

/-! ## Helpers: a small state, and what a step shows -/

/-- Registers with known contents; the reset state's have none. -/
def knownRegs : Regs where
  op := .resolve
  hp := false
  hi := false
  len := 0
  opb := 0
  opcfg := 0
  cfg := 0
  cnt := 0
  alen := 0
  buf := Vector.replicate bufBytes 0
  idx := 0
  raw := ⟨0, 0, 0⟩
  cor := ⟨0, 0, 0⟩
  g := ⟨0, 0, 0⟩
  res := Vector.replicate maxRec ⟨⟨0, 0, 0⟩, ⟨0, 0, 0⟩, ⟨0, 0, 0⟩⟩
  src := 0
  pend := 0
  k := 0
  status := .ok

/-- An idle block with these commands, answers and takes at its ports. -/
def idleState (ws : List Command) (as : List Answer) (n : Nat) : State :=
  { State.reset with regs := knownRegs, cmds := ws, answers := as, takes := n }

/-- The block in a phase of an operation. -/
def busyState (p : Phase) (r : Regs) (as : List Answer) (n : Nat) : State :=
  { idleState [] as n with phase := p, regs := r }

/-- What has passed at the ports after a step. -/
def traceOf : Out → List PortItem
  | .next t => t.trace
  | .fault _ => []
  | .refused _ => []

/-- The phase after a step. -/
def phaseOf : Out → Option Phase
  | .next t => some t.phase
  | .fault _ => none
  | .refused _ => none

/-- A step answered a next state. -/
def wentOn : Out → Bool
  | .next _ => true
  | .fault _ => false
  | .refused _ => false

/-- A step that answered a next state. -/
theorem next_of_wentOn {o : Out} (h : wentOn o = true) : ∃ t, o = .next t := by
  cases o with
  | next t => exact ⟨t, rfl⟩
  | fault r => cases h
  | refused r => cases h

/-- A one-byte request. -/
def rd1 (a : Byte) : PortItem := .request ⟨.read, a, 1⟩

/-! ## WellFormed: each check refuses an ill-formed command -/

theorem test_illformed_resolve : (Instr.resolve ⟨false, true⟩).wellFormed = false := by decide
theorem test_illformed_read : (Instr.read ⟨false, true⟩ 1).wellFormed = false := by decide
theorem test_illformed_dispatch : (Instr.dispatch ⟨false, true⟩).wellFormed = false := by decide
theorem test_wellformed_decode : (Instr.decode 0x3F 0xFFFFFFFFFFFF).wellFormed = true := by decide

/-! ## Decode: words written out bit by bit from R81, R82 and R83, operation first -/

/-- V30: `OP` 00, `HP` 1, `HI` 1. -/
theorem test_decode_resolve :
    decode 0b00_000000_1_1_000000_000000000000000000000000000000000000000000000000 = .resolve ⟨true, true⟩ := by decide
/-- V40: `OP` 01, `HP` 1, `HI` 1, `LEN` 7. -/
theorem test_decode_read :
    decode 0b01_000000_1_1_000000_00000000000000000000000000000000_0000000000000111 = .read ⟨true, true⟩ 7 := by decide
/-- V18 row 2: `OP` 10, MODE 10, FR 0, JUST 1, RANGE 11, bytes C0 FF 00 19 40 80 with the first lowest. -/
theorem test_decode_decode :
    decode 0b10_10_0_1_11_00_000000_10000000_01000000_00011001_00000000_11111111_11000000 =
      .decode 0b10_0_1_11 0x80401900FFC0 := by decide
/-- V67: `OP` 11, `HP` 1, `HI` 0. -/
theorem test_decode_dispatch :
    decode 0b11_000000_1_0_000000_000000000000000000000000000000000000000000000000 = .dispatch ⟨true, false⟩ := by decide
/-- V70: reserved and unused bits are ignored. -/
theorem test_decode_ignores : decode 0x7FFFFFFFFFFF0005 = decode 0x40C0000000000005 := by decide
/-- A string longer than a word is no command. -/
theorem test_decode_too_long : decodeTableWord 72 0 = none := by decide
theorem test_decode_table_word : decodeTableWord 64 0x4080000000000000 = some (.read ⟨true, false⟩ 0) := by decide

/-! ## Assembler: lines of 95_test_vectors.md give its words -/

theorem test_asm_words :
    encode ((AsmLine.decode ⟨.trigger, true, .left, .g16⟩ ⟨0xC0, 0xFF, 0x00, 0x19, 0x40, 0x80⟩).instr specParams)
      = 0xBF0080401900FFC0 ∧
    encode ((AsmLine.read .ok 40).instr specParams) = 0x40C0000000000028 ∧
    encode ((AsmLine.dispatch .uninit).instr specParams) = 0xC080000000000000 := by decide +kernel
theorem test_asm_text :
    (AsmLine.decode ⟨.bypass, false, .right, .g2⟩ ⟨0x64, 0x00, 0x9C, 0xFF, 0x00, 0x00⟩).text =
      "DECODE Bypass/10bit/Right/G2, 64 00 9C FF 00 00" := by decide +kernel

/-! ## One step for each command, from the vectors -/

/-- V30. -/
theorem test_resolve :
    traceOf (step (idleState [0x00C0000000000000] [.ok [0x9F], .ok [0xEB]] 0)) =
      [rd1 0x38, rd1 0x31, .completion ⟨.ok, none, some 0x2B, []⟩] := by decide +kernel
/-- V35. -/
theorem test_resolve_fail :
    traceOf (step (idleState [0x00C0000000000000] [.ok [0x40], .fail] 0)) =
      [rd1 0x38, rd1 0x31, .completion ⟨.transportError, none, none, []⟩] := by decide +kernel
/-- P2. -/
theorem test_read :
    traceOf (step (idleState [0x40C0000000000005] [.ok [0x40], .ok [0x00], .ok [0x02],
        .ok [0x64, 0x00, 0x9C, 0xFF, 0x00, 0x01, 0x05, 0x00, 0xFB, 0xFF, 0xFF, 0x01]] 0)) =
      [rd1 0x38, rd1 0x31, rd1 0x39, .request ⟨.read, 0x32, 12⟩,
       .completion ⟨.ok, some 2, none,
        [⟨⟨0x0064, 0xFF9C, 0x0100⟩, ⟨0x0064, 0xFF9C, 0x0100⟩, ⟨0x3EC7AE14, 0xBEC7AE14, 0x3F7F9724⟩⟩,
         ⟨⟨0x0005, 0xFFFB, 0x01FF⟩, ⟨0x0005, 0xFFFB, 0x01FF⟩, ⟨0x3C9FBE76, 0xBC9FBE76, 0x3FFF1758⟩⟩]⟩] := by
  decide +kernel
/-- V53: the handle is checked before the length. -/
theorem test_read_order :
    traceOf (step (idleState [0x4000000000000000] [] 0)) = [.completion ⟨.nullHandle, none, none, []⟩] := by
  decide +kernel
/-- V18 row 3. -/
theorem test_decode_step :
    traceOf (step (idleState [0x9F0080401900FFC0] [] 0)) =
      [.completion ⟨.ok, some 1, none,
        [⟨⟨0xFFC0, 0x1900, 0x8040⟩, ⟨0xFFF8, 0x0320, 0xF008⟩, ⟨0xBCFF9724, 0x4047AE14, 0xC17F1758⟩⟩]⟩] := by
  decide +kernel
/-- V26, both settings of `NUMERICS`. -/
theorem test_numerics :
    mulScale .f32Rne 5 ⟨39, 4⟩ = 0x3C9FBE76 ∧ mulScale .f64Narrow 5 ⟨39, 4⟩ = 0x3C9FBE77 := by decide +kernel
/-- V60. -/
theorem test_dispatch :
    traceOf (step (idleState [0xC0C0000000000000] [.ok [0x8A]] 8)) =
      [rd1 0x30, .event 7, .event 3, .event 1, .completion ⟨.ok, none, none, []⟩] := by decide +kernel
/-- R165: the sink has taken one of the three, and the second stays presented. -/
theorem test_dispatch_holds :
    traceOf (step (idleState [0xC0C0000000000000] [.ok [0x8A]] 1)) = [rd1 0x30, .event 7] ∧
    phaseOf (step (idleState [0xC0C0000000000000] [.ok [0x8A]] 1)) = some .emit := by decide +kernel
/-- The headers of P2, V37 and V30 (R89), bits that are not valid written zero. -/
theorem test_headers :
    (Completion.mk .ok (some 2) none []).header 0 = 0x0080 ∧
    (Completion.mk .notInitialized none none []).header 0 = 0x6000 ∧
    (Completion.mk .ok none (some 0x2B) []).header 0 = 0x002B := by decide +kernel
/-- `REC` of V18 row 1 (R90). -/
theorem test_record :
    (Record.mk ⟨0xFFC0, 0x1900, 0x8040⟩ ⟨0xFFFF, 0x0064, 0xFE01⟩ ⟨0xBB7F9724, 0x3EC7AE14, 0xBFFF1758⟩).pack =
      0xBFFF17583EC7AE14BB7F9724FE010064FFFF80401900FFC0 := by decide +kernel
/-- From reset, with a word placed where the next command comes from, the first step runs it. -/
theorem test_first_step :
    traceOf (step (State.reset.withFetchWord 64 0xC000000000000000)) =
      [.completion ⟨.nullHandle, none, none, []⟩] := by decide +kernel

/-! ## Witnesses: for each statement with hypotheses, states and operands that meet them, one for each clause

Where a hypothesis is an equation between the outcome of a step and a next state, the witness is a state whose step
answers one. -/

/-- The answers of a `READ` in Fifo mode up to the count, with the spec's parameters. -/
def fifoAnswers (q : Byte) (as : List Answer) : List Answer := .ok [0x40] :: .ok [0x0F] :: .ok [q] :: as

/-- A burst answer of `n` records. -/
def burstOf (n : Nat) : List Byte := List.replicate (6 * n) 0x11

/-- The latch of a `READ` whose checks have passed, with `ALEN` records to fetch in Fifo mode. -/
def readRegs (n : BitVec 6) (idx : BitVec 6) : Regs :=
  { knownRegs with op := .read, hp := true, hi := true, len := 65535, cfg := 0x10, cnt := n, alen := n, idx := idx }

/-- The latch of a `DISPATCH` with these events pending. -/
def dispatchRegs (src pend : Byte) (k : BitVec 3) : Regs :=
  { knownRegs with op := .dispatch, hp := true, hi := true, src := src, pend := pend, k := k }

theorem witness_UnusedBitsAreIgnored :
    (idleState [] [] 0).rst = false ∧ (idleState [] [] 0).phase = .idle ∧
    (0x40C0000000000005 : Command) &&& usedBits 0x40C0000000000005 = 0x7FFFFFFFFFFF0005 &&& usedBits 0x7FFFFFFFFFFF0005 ∧
    (0x003F000000000000 : Command) &&& usedBits 0x003F000000000000 = 0 &&& usedBits 0 ∧
    (0x80FFFFFFFFFFFFFF : Command) &&& usedBits 0x80FFFFFFFFFFFFFF = 0x8000FFFFFFFFFFFF &&& usedBits 0x8000FFFFFFFFFFFF ∧
    (0xFFFFFFFFFFFFFFFF : Command) &&& usedBits 0xFFFFFFFFFFFFFFFF = 0xC0C0000000000000 &&& usedBits 0xC0C0000000000000 := by
  decide

/-- Two busy states that differ in latch registers a `DISPATCH` does not read. -/
theorem witness_UnusedBitsAreIgnored_later :
    (busyState .srcrd { dispatchRegs 0 0 0 with len := 5, opcfg := 0x3F } [.ok [0x81]] 1).forgetUnread =
      (busyState .srcrd { dispatchRegs 0 0 0 with opb := 7 } [.ok [0x81]] 1).forgetUnread ∧
    (busyState .srcrd { dispatchRegs 0 0 0 with len := 5, opcfg := 0x3F } [.ok [0x81]] 1).regs.len ≠
      (busyState .srcrd { dispatchRegs 0 0 0 with opb := 7 } [.ok [0x81]] 1).regs.len := ⟨rfl, by decide⟩

/-- The latch of V70's word, and of a `DECODE` word with its handle bits set (R24, R81). -/
theorem test_latch :
    ((idleState [] [] 0).latchWord 0x7FFFFFFFFFFF0005).regs =
      { knownRegs with op := .read, hp := true, hi := true, len := 5, opb := 0xFFFFFFFF0005, opcfg := 0x3F } ∧
    ((idleState [] [] 0).latchWord 0xBFC080401900FFC0).regs =
      { knownRegs with op := .decode, hp := true, hi := true, len := 0xFFC0, opb := 0x80401900FFC0, opcfg := 0x3F } := by
  constructor <;> rfl

theorem witness_AssemblerLinesAreTheWellFormedCommands :
    paramsWf specParams = true ∧ (Instr.read ⟨true, true⟩ 65535).wellFormed = true ∧
    (Instr.resolve ⟨false, false⟩).wellFormed = true ∧ (Instr.dispatch ⟨true, false⟩).wellFormed = true := by decide

theorem witness_CompletionHeaderLayout :
    (Completion.mk .ok (some 63) none []).alen = some 63 ∧ (Completion.mk .ok none (some 0x3F) []).cfg = some 0x3F := by
  decide

theorem witness_StepRunsTheDecodedCommand :
    (idleState [0xC0C0000000000000] [] 0).rst = false ∧ (idleState [0xC0C0000000000000] [] 0).phase = .idle ∧
    (idleState [0xC0C0000000000000] [] 0).cmds = [0xC0C0000000000000] ∧
    decode 0xC0C0000000000000 = .dispatch ⟨true, true⟩ := by decide

theorem witness_AcceptanceLatchesFields (w : Command) :
    (idleState [w] [] 0).rst = false ∧ (idleState [w] [] 0).phase = .idle ∧ (idleState [w] [] 0).cmds = w :: [] :=
  ⟨rfl, rfl, rfl⟩

theorem witness_BusyBlockIgnoresTheCommandPort :
    (busyState .emit (dispatchRegs 0x8A 0x0A 3) [] 0).rst = false ∧
    (busyState .emit (dispatchRegs 0x8A 0x0A 3) [] 0).phase ≠ .idle := by decide

theorem witness_HangsOnlyInSixPhases_waits (p : Phase) :
    (busyState p knownRegs [] 0).rst = false ∧ (busyState p knownRegs [] 0).phase = p ∧
    (busyState p knownRegs [] 0).answers = [] ∧ (busyState p knownRegs [] 0).takes = 0 := ⟨rfl, rfl, rfl, rfl⟩

theorem witness_HangsOnlyInSixPhases_steps :
    (∃ t, step (idleState [0x00C0000000000000] [] 0) = .next t) ∧
    (∃ t, exec (.dispatch ⟨true, true⟩) (idleState [] [.ok [0xFF]] 8) = .next t) :=
  ⟨next_of_wentOn (by decide +kernel), next_of_wentOn (by decide +kernel)⟩

theorem witness_OperationIsItsTransitions : (idleState [] (fifoAnswers 0xFF [.ok (burstOf 63)]) 8).rst = false := by
  decide

theorem witness_OneCompletionForEachCommand :
    (∃ t, exec (.read ⟨true, true⟩ 1) (idleState [] (fifoAnswers 0x01 [.ok (burstOf 1)]) 0) = .next t) ∧
    (∃ t, exec (.read ⟨true, true⟩ 1) (idleState [] (fifoAnswers 0x01 []) 0) = .next t) ∧
    (busyState .burst (readRegs 1 0) [.ok (burstOf 1)] 0).rst = false ∧
    (busyState .burst (readRegs 1 0) [.ok (burstOf 1)] 0).phase ≠ .idle ∧
    ∃ t, step (busyState .burst (readRegs 1 0) [.ok (burstOf 1)] 0) = .next t :=
  ⟨next_of_wentOn (by decide +kernel), next_of_wentOn (by decide +kernel), rfl, by decide,
   next_of_wentOn (by decide +kernel)⟩

/-- Two states that differ in the phase and in every register. -/
theorem witness_NothingIsCarriedIntoAnOperation :
    (idleState [] [.fail] 3).par = (busyState .emit (dispatchRegs 0xFF 0xFF 7) [.fail] 3).par ∧
    (idleState [] [.fail] 3).answers = (busyState .emit (dispatchRegs 0xFF 0xFF 7) [.fail] 3).answers ∧
    (idleState [] [.fail] 3).takes = (busyState .emit (dispatchRegs 0xFF 0xFF 7) [.fail] 3).takes ∧
    (idleState [] [.fail] 3).phase ≠ (busyState .emit (dispatchRegs 0xFF 0xFF 7) [.fail] 3).phase := by decide

theorem witness_StepOnlyConsumesInputs :
    ∃ t, step (idleState [0xC0C0000000000000, 0] [.ok [0x01], .fail] 2) = .next t :=
  next_of_wentOn (by decide +kernel)

theorem witness_ResetAbandonsTheOperation :
    (busyState .burst (readRegs 63 0) [] 0).assertReset.rst = true := rfl

/-! A state of each phase that meets the invariant, at the ends of the ranges its clauses name. -/

theorem witness_inv_idle : SeqInv (idleState [] [] 0) := trivial
theorem witness_inv_chk : SeqInv (busyState .chk knownRegs [] 0) := (by decide : Op.resolve ≠ .decode)
theorem witness_inv_res0_resolve :
    SeqInv (busyState .res0 { knownRegs with op := .resolve, hp := true, hi := true } [] 0) :=
  .inl ⟨rfl, rfl, rfl⟩
theorem witness_inv_res0_read : SeqInv (busyState .res0 (readRegs 0 0) [] 0) := .inr ⟨rfl, rfl, rfl, by decide⟩
theorem witness_inv_res1 : SeqInv (busyState .res1 (readRegs 0 0) [] 0) := .inr ⟨rfl, rfl, rfl, by decide⟩
theorem witness_inv_stat : SeqInv (busyState .stat (readRegs 0 0) [] 0) := ⟨⟨rfl, rfl, rfl, by decide⟩, by decide⟩
theorem witness_inv_burst_most : SeqInv (busyState .burst (readRegs 63 0) [] 0) :=
  ⟨⟨rfl, rfl, rfl, by decide⟩, by decide, by decide, by decide⟩
theorem witness_inv_burst_bypass : SeqInv (busyState .burst { readRegs 1 0 with cfg := 0 } [] 0) :=
  ⟨⟨rfl, rfl, rfl, by decide⟩, by decide, by decide, by decide⟩
theorem witness_inv_dec_decode : SeqInv (busyState .dec { knownRegs with op := .decode } [] 0) := .inl rfl
theorem witness_inv_dec_first : SeqInv (busyState .dec (readRegs 1 0) [] 0) :=
  .inr ⟨⟨⟨rfl, rfl, rfl, by decide⟩, by decide, by decide, by decide⟩, by decide⟩
theorem witness_inv_dec_last : SeqInv (busyState .dec (readRegs 63 62) [] 0) :=
  .inr ⟨⟨⟨rfl, rfl, rfl, by decide⟩, by decide, by decide, by decide⟩, by decide⟩
theorem witness_inv_srcrd : SeqInv (busyState .srcrd (dispatchRegs 0 0 0) [] 0) := ⟨rfl, rfl, rfl⟩
theorem witness_inv_scan : SeqInv (busyState .scan (dispatchRegs 0xFF 0x00 0) [] 0) := ⟨⟨rfl, rfl, rfl⟩, rfl⟩
theorem witness_inv_emit : SeqInv (busyState .emit (dispatchRegs 0x81 0x01 0) [] 0) := ⟨⟨rfl, rfl, rfl⟩, rfl, rfl⟩

theorem witness_StepKeepsInvariant :
    SeqInv (busyState .burst (readRegs 63 0) [.ok (burstOf 63)] 0) ∧
    (∃ t, step (busyState .burst (readRegs 63 0) [.ok (burstOf 63)] 0) = .next t) ∧
    ∃ t, tick (busyState .burst (readRegs 63 0) [.ok (burstOf 63)] 0) = .next t :=
  ⟨witness_inv_burst_most, next_of_wentOn (by decide +kernel), next_of_wentOn (by decide +kernel)⟩

theorem witness_SafeStateNeverFaults : SeqInv (busyState .dec (readRegs 63 62) [] 0) := witness_inv_dec_last

/-- An answer one byte short, and one that is empty. -/
theorem witness_MalformedAnswersAreRefused :
    step (busyState .srcrd (dispatchRegs 0 0 0) [.ok []] 0) = .refused (.answerLength 1 0) ∧
    SeqInv (busyState .burst (readRegs 63 0) [.ok (List.replicate 377 0)] 0) ∧
    (busyState .burst (readRegs 63 0) [.ok (List.replicate 377 0)] 0).rst = false ∧
    (busyState .burst (readRegs 63 0) [.ok (List.replicate 377 0)] 0).requestPort = some ⟨.read, 0x32, 378⟩ ∧
    (List.replicate 377 (0 : Byte)).length ≠ (378 : BitVec 16).toNat :=
  ⟨rfl, witness_inv_burst_most, rfl, by decide, by decide +kernel⟩

theorem witness_OutstandingRequestIsTheLast :
    RequestStands { busyState .stat (readRegs 0 0) [.ok [0x02]] 0 with trace := [rd1 0x39] } ∧
    ∃ t, step { busyState .stat (readRegs 0 0) [.ok [0x02]] 0 with trace := [rd1 0x39] } = .next t :=
  ⟨fun r h => by cases h; rfl, next_of_wentOn (by decide +kernel)⟩

theorem witness_BlockNeverWritesNorReadsTheRate :
    paramsWf State.reset.par = true ∧
    (∃ t, step (busyState .res0 (readRegs 0 0) [.ok [0x00]] 0) = .next t) ∧
    traceOf (step (busyState .res0 (readRegs 0 0) [.ok [0x00]] 0)) = [rd1 0x31] :=
  ⟨by decide, next_of_wentOn (by decide +kernel), by decide +kernel⟩

theorem witness_OnlyTheFiveRequests :
    SeqInv (busyState .stat (readRegs 0 0) [.ok [0xFF]] 0) ∧
    (∃ t, step (busyState .stat (readRegs 0 0) [.ok [0xFF]] 0) = .next t) ∧
    traceOf (step (busyState .stat (readRegs 0 0) [.ok [0xFF]] 0)) = [.request ⟨.read, 0x32, 378⟩] :=
  ⟨⟨⟨rfl, rfl, rfl, by decide⟩, by decide⟩, next_of_wentOn (by decide +kernel), by decide +kernel⟩

theorem witness_RequestsAreAPrefixOfTheRule :
    (idleState [] (fifoAnswers 0x01 []) 0).par.order = .ctlFirst ∧
    (∃ t, exec (.resolve ⟨true, true⟩) (idleState [] (fifoAnswers 0x01 []) 0) = .next t) ∧
    (∃ t, exec (.read ⟨true, true⟩ 1) (idleState [] (fifoAnswers 0x01 []) 0) = .next t) ∧
    (∃ t, exec (.decode 0 0) (idleState [] (fifoAnswers 0x01 []) 0) = .next t) ∧
    ∃ t, exec (.dispatch ⟨true, true⟩) (idleState [] (fifoAnswers 0x01 []) 0) = .next t :=
  ⟨rfl, next_of_wentOn (by decide +kernel), next_of_wentOn (by decide +kernel), ⟨_, rfl⟩,
   next_of_wentOn (by decide +kernel)⟩

/-- Each of the three errors is some command's. -/
theorem witness_ArgumentsAreCheckedFirst :
    traceOf (exec (.resolve ⟨false, true⟩) (idleState [] [] 0)) = [errorItem .nullHandle] ∧
    traceOf (exec (.dispatch ⟨true, false⟩) (idleState [] [] 0)) = [errorItem .notInitialized] ∧
    traceOf (exec (.read ⟨true, true⟩ 0) (idleState [] [] 0)) = [errorItem .lengthZero] := by decide +kernel

/-- A failure at each of the requests; the shortest batch at the last. -/
theorem witness_ReadStopsAtTheFirstFailure :
    (1 : BitVec 16) ≠ 0 ∧
    (idleState [] [.fail] 0).answers = [.fail] ∧
    (idleState [] [.ok [0x40], .fail] 0).answers = (resolverAnswers specParams 0x40 0x0F).take 1 ++ [.fail] ∧
    cfgMode specParams (cfgOf 0x1F 0x0F) = .bypass ∧ cfgMode specParams (cfgOf 0x40 0x0F) ≠ .bypass ∧
    (idleState [] [.ok [0x40], .ok [0x0F], .fail] 0).answers = resolverAnswers specParams 0x40 0x0F ++ [.fail] ∧
    actualLen 1 (fifoStatusCount 0x01) ≠ 0 ∧ actualLen 65535 (fifoStatusCount 0xFF) ≠ 0 ∧
    (idleState [] (fifoAnswers 0x01 [.fail]) 0).answers =
      resolverAnswers specParams 0x40 0x0F ++ .ok [0x01] :: .fail :: [] := by decide

/-- A completion of each kind. -/
theorem witness_CompletionsAreAllOrNothing :
    traceOf (step (busyState .dec (readRegs 1 0) [] 0)) =
      [.completion ⟨.ok, some 1, none, [⟨⟨0, 0, 0⟩, ⟨0, 0, 0⟩, ⟨0, 0, 0⟩⟩]⟩] ∧
    traceOf (step (busyState .srcrd (dispatchRegs 0 0 0) [.fail] 0)) =
      [.completion ⟨.transportError, none, none, []⟩] := by decide +kernel

theorem witness_ResolveDeliversCfg :
    (idleState [] [.ok [0x9F], .ok [0xEB]] 0).par.order = .ctlFirst ∧
    (idleState [] [.fail] 0).answers = [.fail] ∧
    (idleState [] [.ok [0x9F], .fail] 0).answers = .ok [0x9F] :: .fail :: [] ∧
    (idleState [] [.ok [0x9F], .ok [0xEB]] 0).answers = .ok [0x9F] :: .ok [0xEB] :: [] := by decide

/-- Both orders. -/
theorem witness_ResolveInEitherOrder :
    (idleState [] [.ok [0x9F], .ok [0xEB]] 0).answers = resolverAnswers specParams 0x9F 0xEB ++ [] ∧
    (idleState [] [.ok [0xEB], .ok [0x9F]] 0).answers =
      resolverAnswers { specParams with order := .fmtFirst } 0x9F 0xEB ++ [] := by decide

theorem witness_ResolverWaitsForItsAnswers :
    (idleState [] [] 0).par.order = .ctlFirst ∧ (1 : BitVec 16) ≠ 0 ∧ (idleState [] [] 0).answers = [] ∧
    (idleState [] [.ok [0x40]] 0).answers = [.ok [0x40]] := by decide

theorem witness_ReadInBypassDeliversOneRecord :
    (1 : BitVec 16) ≠ 0 ∧ (65535 : BitVec 16) ≠ 0 ∧ cfgMode specParams (cfgOf 0x3F 0xFF) = .bypass ∧
    (burstOf 1).length = 6 ∧
    (idleState [] [.ok [0x3F], .ok [0xFF], .ok (burstOf 1)] 0).answers =
      resolverAnswers specParams 0x3F 0xFF ++ .ok (burstOf 1) :: [] := by decide

/-- The smallest batch, and the largest. -/
theorem witness_ReadDeliversTheQueuedRecords :
    1 = min (BitVec.toNat (1 : BitVec 16)) ((0xFF : Byte).toNat % 64) ∧
    63 = min (BitVec.toNat (65535 : BitVec 16)) ((0xFF : Byte).toNat % 64) ∧ (1 : Nat) ≠ 0 ∧ (63 : Nat) ≠ 0 ∧
    cfgMode specParams (cfgOf 0x40 0x0F) ≠ .bypass ∧ (burstOf 1).length = 6 * 1 ∧ (burstOf 63).length = 6 * 63 ∧
    (idleState [] (fifoAnswers 0xFF [.ok (burstOf 63)]) 0).answers =
      resolverAnswers specParams 0x40 0x0F ++ .ok [0xFF] :: .ok (burstOf 63) :: [] := by decide +kernel

theorem witness_ReadOfAnEmptyQueue :
    (3 : BitVec 16) ≠ 0 ∧ (0xC0 : Byte).toNat % 64 = 0 ∧ cfgMode specParams (cfgOf 0x40 0x0F) ≠ .bypass ∧
    (idleState [] (fifoAnswers 0xC0 []) 0).answers = resolverAnswers specParams 0x40 0x0F ++ .ok [0xC0] :: [] := by
  decide

theorem witness_ReadWaitsForTheBurst :
    (1 : BitVec 16) ≠ 0 ∧ (0xFF : Byte).toNat % 64 ≠ 0 ∧ cfgMode specParams (cfgOf 0x40 0x0F) ≠ .bypass ∧
    (idleState [] (fifoAnswers 0xFF []) 0).answers = resolverAnswers specParams 0x40 0x0F ++ [.ok [0xFF]] := by decide

/-- The first record of the largest batch, and the last but one. -/
theorem witness_DecodeLoopWritesOneRecord :
    (busyState .dec (readRegs 63 0) [] 0).rst = false ∧ (busyState .dec (readRegs 63 0) [] 0).phase = .dec ∧
    (readRegs 63 0).op = .read ∧ (readRegs 63 0).idx.toNat + 1 < (readRegs 63 0).alen.toNat ∧
    (readRegs 63 61).idx.toNat + 1 < (readRegs 63 61).alen.toNat := by decide

theorem witness_BurstFillsTheBuffer :
    (busyState .burst (readRegs 63 0) [.ok (burstOf 63)] 0).rst = false ∧
    (busyState .burst (readRegs 63 0) [.ok (burstOf 63)] 0).phase = .burst ∧ (readRegs 63 0).op = .read ∧
    (busyState .burst (readRegs 63 0) [.ok (burstOf 63)] 0).answers = .ok (burstOf 63) :: [] ∧
    (burstOf 63).length = 6 * (readRegs 63 0).alen.toNat ∧ (burstOf 1).length = 6 * (readRegs 1 0).alen.toNat := by
  decide +kernel

theorem witness_ReadIsResolveThenDecode :
    cfgMode specParams (cfgOf 0xC0 0x0F) ≠ .bypass ∧ (0xA0 : Byte).toNat % 64 ≠ 0 ∧
    resolverAnswers (idleState [] [] 0).par 0xC0 0x0F = [.ok [0xC0], .ok [0x0F]] := by decide

theorem witness_AssembleIsLittleEndian : assemble 0xC0 0xFF = assemble 0xC0 0xFF ∧ assemble 0x00 0x80 = 0x8000 := by
  decide

theorem witness_CorrectIsFloorDivision :
    cfgJust specParams 0b000100 = .left ∧ cfgJust specParams 0b001111 = .left ∧ cfgJust specParams 0 = .right := by
  decide

theorem witness_SignExtensionWordingsAgree : 10 ≤ 10 ∧ 10 ≤ 13 ∧ 13 ≤ 13 := by decide

theorem witness_DecodeIgnoresMode :
    (0b001111 : CfgWord).extractLsb' 0 4 = (0b111111 : CfgWord).extractLsb' 0 4 ∧
    cfgMode specParams 0b001111 ≠ cfgMode specParams 0b111111 := by decide

/-- Records that share one lane each and differ in the others. -/
theorem witness_LanesAreIndependent :
    (Six.mk 1 2 3 4 5 6).b0 = (Six.mk 1 2 9 9 9 9).b0 ∧ (Six.mk 1 2 3 4 5 6).b1 = (Six.mk 1 2 9 9 9 9).b1 ∧
    (Six.mk 1 2 3 4 5 6).b2 = (Six.mk 9 9 3 4 9 9).b2 ∧ (Six.mk 1 2 3 4 5 6).b3 = (Six.mk 9 9 3 4 9 9).b3 ∧
    (Six.mk 1 2 3 4 5 6).b4 = (Six.mk 9 9 9 9 5 6).b4 ∧ (Six.mk 1 2 3 4 5 6).b5 = (Six.mk 9 9 9 9 5 6).b5 := by decide

theorem witness_DecodeTable :
    (0b000000 : CfgWord).getLsbD 2 = false ∧
    ((0b000111 : CfgWord).getLsbD 2 = true ∧ (0b000111 : CfgWord).getLsbD 3 = false) ∧
    ((0b001111 : CfgWord).getLsbD 2 = true ∧ (0b001111 : CfgWord).getLsbD 3 = true) := by decide

/-- An exact tie, between 2^24 and 2^24 + 2, and the largest ratio that does not round to infinity is near. -/
theorem witness_RoundingIsNearestEven :
    0 < 1 ∧ round32 (2 ^ 24 + 1) 1 < inf32 ∧ round32 (2 ^ 24) 1 + 1 < inf32 ∧
    round32 (2 ^ 24) 1 + 1 ≠ round32 (2 ^ 24 + 1) 1 ∧ round32 ((2 ^ 24 - 1) * 2 ^ 104) 1 < inf32 := by decide +kernel

theorem witness_ProductsStayNormal : (1 : I16) ≠ 0 ∧ (0x8000 : I16) ≠ 0 := by decide

theorem witness_ScaleIsSignSymmetric :
    (1 : I16) ≠ 0 ∧ (1 : I16) ≠ 0x8000 ∧ (0x7FFF : I16) ≠ 0 ∧ (0x7FFF : I16) ≠ 0x8000 := by decide

theorem witness_RangeScalingIsExact : (0xFFFF : I16) ≠ 0 := by decide

theorem witness_FullResolutionIgnoresRange :
    cfgFull specParams 0b001000 = true ∧ cfgFull specParams 0b001011 = true ∧ cfgFull specParams 0b000000 = false ∧
    cfgRange specParams 0b000000 = .g2 := by decide

/-- No event, all eight with a sink that takes exactly eight, and a failed read. -/
theorem witness_DispatchDeliversAllOrNothing :
    (idleState [] [.ok [0x00]] 0).answers = .ok [0x00] :: [] ∧ (eventsOf 0x00).length ≤ (idleState [] [] 0).takes ∧
    (idleState [] [.ok [0xFF]] 8).answers = .ok [0xFF] :: [] ∧ (eventsOf 0xFF).length ≤ (idleState [] [] 8).takes ∧
    (idleState [] [.fail] 0).answers = .fail :: [] := by decide

theorem witness_DispatchWaitsForTheSink :
    (idleState [] [.ok [0xFF]] 7).answers = .ok [0xFF] :: [] ∧ (idleState [] [] 7).takes < (eventsOf 0xFF).length ∧
    (idleState [] [] 0).takes < (eventsOf 0x01).length ∧ (idleState [] [] 7).rst = false := by decide

theorem witness_EventsDescend :
    (∃ t, exec (.dispatch ⟨true, true⟩) (idleState [] [.ok [0xA2]] 2) = .next t) ∧
    (idleState [] [.ok [0xA2]] 2).answers = .ok [0xA2] :: [] :=
  ⟨next_of_wentOn (by decide +kernel), rfl⟩

theorem witness_EncoderGivesTheHighestBit :
    highestBit 0 = none ∧ highestBit 0x01 = some 0 ∧ highestBit 0x80 = some 7 ∧ highestBit 0xFF = some 7 := by decide

end Sys2Proof.Tests
end

section
/-! What an operation shows at the ports depends on the command, the parameters and the inputs alone (R19, R20). Two
runs of one command are compared by the relation `AlikeSince`, which says nothing of the registers; each shared
operation of the model has one rule that says what the two runs show when they go on from related states. -/

namespace Sys2Proof.Machine

variable {a a' s s' : State}

/-! ## Two runs that have shown the same -/

/-- `s`, reached from `a`, and `s'`, reached from `a'`, have the same parameters and the same inputs left, and the
same has passed at their ports on the way. -/
structure AlikeSince (a a' s s' : State) : Prop where
  par : s.par = s'.par
  answers : s.answers = s'.answers
  takes : s.takes = s'.takes
  passed : ∃ l, s.trace = a.trace ++ l ∧ s'.trace = a'.trace ++ l

/-- At the start of the two runs nothing has passed. -/
theorem AlikeSince.start (hp : s.par = s'.par) (ha : s.answers = s'.answers) (ht : s.takes = s'.takes) :
    AlikeSince s s' s s' :=
  ⟨hp, ha, ht, [], by simp, by simp⟩

/-- The registers and the phase do not matter. -/
theorem AlikeSince.update (h : AlikeSince a a' s s') {p p' : Phase} {r r' : Regs} :
    AlikeSince a a' { s with phase := p, regs := r } { s' with phase := p', regs := r' } :=
  ⟨h.par, h.answers, h.takes, h.passed⟩

/-- Both runs consume the same answers. -/
theorem AlikeSince.setAnswers (h : AlikeSince a a' s s') (as : List Answer) :
    AlikeSince a a' (s.setAnswers as) (s'.setAnswers as) :=
  ⟨h.par, rfl, h.takes, h.passed⟩

/-- Both runs make the same request. -/
theorem AlikeSince.ask (h : AlikeSince a a' s s') {p : Phase} {r r' : Request} (hr : r = r') :
    AlikeSince a a' (ask p r s) (ask p r' s') := by
  obtain ⟨l, hl, hl'⟩ := h.passed
  exact ⟨h.par, h.answers, h.takes, l ++ [.request r], by simp [hl], by simp [hl', hr]⟩

/-- Both runs let the same items pass and have the same inputs left. -/
theorem AlikeSince.pass (h : AlikeSince a a' s s') (items : List PortItem) (as : List Answer) (n : Nat)
    {p p' : Phase} {r r' : Regs} {d d' : Nat} :
    AlikeSince a a'
      { s with phase := p, regs := r, trace := s.trace ++ items, answers := as, takes := n, draws := d }
      { s' with phase := p', regs := r', trace := s'.trace ++ items, answers := as, takes := n, draws := d' } := by
  obtain ⟨l, hl, hl'⟩ := h.passed
  exact ⟨h.par, rfl, rfl, l ++ items, by simp [hl], by simp [hl']⟩

/-! ## What two such runs show -/

/-- Two steps that end in related states, in the same phase, show the same. -/
theorem seen_next (h : AlikeSince a a' s s') (hp : s.phase = s'.phase) :
    seen a (.next s) = seen a' (.next s') := by
  obtain ⟨l, hl, hl'⟩ := h.passed
  simp only [seen, passed_of_append hl, passed_of_append hl', h.answers, h.takes, hp]

theorem seen_ended (h : AlikeSince a a' s s') (items : List PortItem) (as : List Answer) (n : Nat) :
    seen a (.next (ended s items as n)) = seen a' (.next (ended s' items as n)) :=
  seen_next (h.pass items as n) rfl

/-- Completions that carry the same show the same. -/
theorem seen_finish (h : AlikeSince a a' s s') (v : Status) (n : Option (BitVec 6)) (c : Option CfgWord)
    (rs : List Record) : seen a (.next (finish v n c rs s)) = seen a' (.next (finish v n c rs s')) := by
  rw [finish_eq_ended, finish_eq_ended, h.answers, h.takes]
  exact seen_ended h _ _ _

/-- The checks find the same, and the operations show the same where they pass. -/
theorem seen_checked {k k' : State → Out} (h : AlikeSince a a' s s')
    (hc : checkFailure s.regs = checkFailure s'.regs) (hk : seen a (k s) = seen a' (k' s')) :
    seen a (checked s k) = seen a' (checked s' k') := by
  unfold checked
  rw [hc]
  cases checkFailure s'.regs with
  | none => exact hk
  | some e => exact seen_finish h _ _ _ _

/-- Two waits for the same answer show the same if they do so when the answer is `ok` and of the length asked. -/
theorem seen_onAnswer_of_ok {n : Nat} {k k' : List Byte → State → Out} (h : AlikeSince a a' s s')
    (hp : s.phase = s'.phase)
    (hok : ∀ bs as, s.answers = .ok bs :: as → bs.length = n →
      seen a (onAnswer n s k) = seen a' (onAnswer n s' k')) :
    seen a (onAnswer n s k) = seen a' (onAnswer n s' k') := by
  obtain ⟨ha, hs⟩ | ⟨as, ha, hs⟩ | ⟨bs, as, ha, hn, -⟩ | ⟨bs, as, ha, hn, hs⟩ := onAnswer_cases n s k
  · rw [hs, onAnswer_nil (h.answers ▸ ha)]
    exact seen_next h hp
  · rw [hs, onAnswer_fail (h.answers ▸ ha)]
    exact seen_finish (h.setAnswers as) _ _ _ _
  · exact hok bs as ha hn
  · rw [hs]
    simp [onAnswer, ← h.answers, ha, hn, seen]

/-- Two waits for the same answer show the same if their continuations do. -/
theorem seen_onAnswer {n : Nat} {k k' : List Byte → State → Out} (h : AlikeSince a a' s s')
    (hp : s.phase = s'.phase)
    (hk : ∀ bs as, AlikeSince a a' (s.setAnswers as) (s'.setAnswers as) →
      seen a (k bs (s.setAnswers as)) = seen a' (k' bs (s'.setAnswers as))) :
    seen a (onAnswer n s k) = seen a' (onAnswer n s' k') :=
  seen_onAnswer_of_ok h hp fun bs as ha hn => by
    rw [onAnswer_ok ha hn, onAnswer_ok (h.answers ▸ ha) hn]
    exact hk bs as (h.setAnswers as)

/-! ## The pieces of the four operations -/

/-- The resolver sequence writes the whole of `CFG` from the two answers, in either order, and no other register. -/
theorem seen_resolveSeq {k k' : State → Out} (h : AlikeSince a a' s s')
    (hk : ∀ t t' c, AlikeSince a a' t t' → t.regs = { s.regs with cfg := c } → t'.regs = { s'.regs with cfg := c } →
      seen a (k t) = seen a' (k' t')) :
    seen a (resolveSeq s k) = seen a' (resolveSeq s' k') := by
  unfold resolveSeq
  rw [h.par]
  cases s'.par.order with
  | ctlFirst =>
    refine seen_onAnswer (h.ask (congrArg reqFifoCtl h.par)) rfl fun c as h => ?_
    refine seen_onAnswer (h.update.ask (congrArg reqDataFormat h.par)) rfl fun f as h => ?_
    exact hk _ _ (cfgOf (firstByte c) (firstByte f)) h.update
      (by simp [cfgWithFormat_cfgWithMode]) (by simp [cfgWithFormat_cfgWithMode])
  | fmtFirst =>
    refine seen_onAnswer (h.ask (congrArg reqDataFormat h.par)) rfl fun f as h => ?_
    refine seen_onAnswer (h.update.ask (congrArg reqFifoCtl h.par)) rfl fun c as h => ?_
    exact hk _ _ (cfgOf (firstByte c) (firstByte f)) h.update
      (by simp [cfgWithMode_cfgWithFormat]) (by simp [cfgWithMode_cfgWithFormat])

/-- The burst and its decode read `ALEN`, `CFG` and the answer: `BUF` and `RES` are written before they are read. -/
theorem seen_readBurst (h : AlikeSince a a' s s') (hc : s.regs.cfg = s'.regs.cfg) (hn : s.regs.alen = s'.regs.alen) :
    seen a (readBurst s) = seen a' (readBurst s') := by
  have hreq : reqBurst s.par s.regs.alen = reqBurst s'.par s'.regs.alen := by rw [h.par, hn]
  unfold readBurst
  rw [hn]
  refine seen_onAnswer_of_ok (h.ask hreq) rfl fun bs as ha hl => ?_
  rw [burstLen_toNat] at hl
  have e := readBurst_ok s bs as _ ha rfl (hn ▸ hl)
  have e' := readBurst_ok s' bs as _ (h.answers ▸ ha) rfl hl
  rw [readBurst, hn] at e
  rw [readBurst] at e'
  rw [e, e', h.par, hc, h.takes]
  exact seen_ended h _ _ _

/-- After the resolver sequence a `READ` depends on `LEN` and `CFG` alone. -/
theorem seen_readSamples (h : AlikeSince a a' s s') (hc : s.regs.cfg = s'.regs.cfg) (hl : s.regs.len = s'.regs.len) :
    seen a (readSamples s) = seen a' (readSamples s') := by
  unfold readSamples
  rw [h.par, hc]
  split
  next => exact seen_readBurst h.update hc rfl
  next =>
    refine seen_onAnswer (h.ask (congrArg reqFifoStatus h.par)) rfl fun bs as h => ?_
    have hn : (gotFifoStatus bs ((askFifoStatus s).setAnswers as)).regs.alen =
        (gotFifoStatus bs ((askFifoStatus s').setAnswers as)).regs.alen := by simp [hl]
    simp only [hn]
    split
    next h0 =>
      rw [completeRead, completeRead, hn, h0]
      exact seen_finish h.update _ _ _ _
    next => exact seen_readBurst h.update hc hn

/-- The event loop depends on `PEND` alone. -/
theorem seen_emitPending (h : AlikeSince a a' s s') (hp : s.regs.pend = s'.regs.pend) :
    seen a (.next (emitPending 9 s)) = seen a' (.next (emitPending 9 s')) := by
  have hlt := eventsOf_length_lt s'.regs.pend
  by_cases ht : (eventsOf s'.regs.pend).length ≤ s'.takes
  · rw [emitPending_all 9 s (hp ▸ hlt) (by rw [hp, h.takes]; exact ht), emitPending_all 9 s' hlt ht,
      hp, h.answers, h.takes]
    exact seen_ended h _ _ _
  · obtain ⟨r, e, -⟩ := emitPending_some 9 s (hp ▸ hlt) (by rw [hp, h.takes]; omega)
    obtain ⟨r', e', -⟩ := emitPending_some 9 s' hlt (by omega)
    rw [e, e', hp, h.takes, h.answers]
    exact seen_next (h.pass _ _ _) rfl

/-- Everything `DECODE` does (R131, R132): one record, decoded from the operand under the operand configuration. -/
theorem decodeOperand_eq_ended (s : State) :
    decodeOperand s = ended s [.completion ⟨.ok, some 1, none, [decodeOne s.par s.regs.opcfg
      ⟨opbByte s.regs.opb 0, opbByte s.regs.opb 1, opbByte s.regs.opb 2, opbByte s.regs.opb 3, opbByte s.regs.opb 4,
        opbByte s.regs.opb 5⟩]⟩] s.answers s.takes := by
  have htake (v : Vector Record maxRec) (r : Record) : (v.setIfInBounds 0 r).toList.take 1 = [r] := by
    obtain ⟨x, xs, hv⟩ := List.exists_cons_of_length_pos (l := v.toList) (by rw [Vector.length_toList]; decide)
    simp [hv]
  rw [decodeOperand_eq_decodeDirect, decodeDirect, completeDecode, finish_eq_ended, State.storeRecord_regs, htake]
  rfl

theorem seen_decodeOperand (h : AlikeSince a a' s s') (hc : s.regs.opcfg = s'.regs.opcfg)
    (hb : s.regs.opb = s'.regs.opb) : seen a (.next (decodeOperand s)) = seen a' (.next (decodeOperand s')) := by
  rw [decodeOperand_eq_ended, decodeOperand_eq_ended, h.par, hc, hb, h.answers, h.takes]
  exact seen_ended h _ _ _

/-! ## The operations -/

theorem seen_execResolve (h : AlikeSince a a' s s') (hd : Handle) :
    seen a (execResolve hd s) = seen a' (execResolve hd s') := by
  unfold execResolve
  refine seen_checked h.update (by simp [checkFailure, acceptResolve]) ?_
  refine seen_resolveSeq h.update fun t t' c h hr hr' => ?_
  rw [completeResolve, completeResolve, hr, hr']
  exact seen_finish h _ _ _ _

theorem seen_execRead (h : AlikeSince a a' s s') (hd : Handle) (len : BitVec 16) :
    seen a (execRead hd len s) = seen a' (execRead hd len s') := by
  unfold execRead
  refine seen_checked h.update (by simp [checkFailure, acceptRead]) ?_
  exact seen_resolveSeq h.update fun t t' c h hr hr' =>
    seen_readSamples h (by rw [hr, hr']) (by rw [hr, hr']; rfl)

theorem seen_execDispatch (h : AlikeSince a a' s s') (hd : Handle) :
    seen a (execDispatch hd s) = seen a' (execDispatch hd s') := by
  unfold execDispatch
  refine seen_checked h.update (by simp [checkFailure, acceptDispatch]) ?_
  exact seen_onAnswer (h.update.ask (congrArg reqIntSource h.par)) rfl fun bs as h => seen_emitPending h.update rfl

/-- Settles O15: the two runs start related, and each command's operation shows the same from related states. -/
theorem nothingIsCarriedIntoAnOperation : Obligations.NothingIsCarriedIntoAnOperation := by
  unfold Obligations.NothingIsCarriedIntoAnOperation
  intro i s s' hp ha ht
  have h := AlikeSince.start hp ha ht
  cases i with
  | resolve hd => exact seen_execResolve h hd
  | read hd len => exact seen_execRead h hd len
  | decode opcfg opb => exact seen_decodeOperand h.update rfl rfl
  | dispatch hd => exact seen_execDispatch h hd

end Sys2Proof.Machine
end

section
/-! The state after reset, and the two transitions of `READ` around its burst: the wait in `BURST` with `CNT` and `ALEN`
set (R26, R114), and the answer placed in `BUF` (R27, R57), each with the frame of all other registers (R47). -/

namespace Sys2Proof.Machine

/-! ## After reset -/

/-- Settles O18: the ports read nothing but the phase, which is `IDLE`. -/
theorem resetStateIsIdle : Obligations.ResetStateIsIdle := by
  unfold Obligations.ResetStateIsIdle
  have hphase : State.reset.phase = .idle := rfl
  have hrequest : State.reset.requestPort = none := by simp [State.requestPort, hphase]
  have hevent : State.reset.eventPort = none := by simp [State.eventPort, hphase]
  exact ⟨hphase, hrequest, hevent, rfl, rfl, rfl, rfl, rfl⟩

/-- An idle block meets the register invariant, whatever its registers hold. -/
theorem seqInv_of_idle {s : State} (h : s.phase = .idle) : SeqInv s := by simp [SeqInv, h]

/-- With nothing outstanding there is no request to stand. -/
theorem requestStands_of_requestPort_none {s : State} (h : s.requestPort = none) : RequestStands s := by
  intro r hr
  rw [h] at hr
  cases hr

/-- Settles O20: the state after reset is idle, with nothing outstanding. -/
theorem invariantHoldsAtReset : Obligations.InvariantHoldsAtReset := by
  unfold Obligations.InvariantHoldsAtReset
  obtain ⟨hphase, hrequest, -⟩ := resetStateIsIdle
  exact ⟨seqInv_of_idle hphase, requestStands_of_requestPort_none hrequest⟩

/-! ## `READ` up to its burst -/

/-- Checks that find nothing leave the operation to its continuation. -/
theorem checked_of_checkFailure_none {s : State} (h : checkFailure s.regs = none) (k : State → Out) :
    checked s k = k s := by simp [checked, h]

/-- `READ` of something with a good handle passes its checks (R184). -/
theorem execRead_of_good {len : BitVec 16} (hlen : len ≠ 0) (s : State) :
    execRead ⟨true, true⟩ len s = resolveSeq (acceptRead ⟨true, true⟩ len s) readSamples :=
  checked_of_checkFailure_none (checkFailure_eq_none.mpr ⟨rfl, rfl, fun _ => hlen⟩) _

/-- Out of Bypass mode, with the count answered and something to fetch, `READ` goes on to its burst (R113, R116). -/
theorem readSamples_of_count {s : State} {bs : List Byte} {as : List Answer}
    (hmode : cfgMode s.par s.regs.cfg ≠ .bypass) (ha : s.answers = .ok bs :: as) (hl : bs.length = 1)
    (hn : actualLen s.regs.len (fifoStatusCount (firstByte bs)) ≠ 0) :
    readSamples s = readBurst (gotFifoStatus bs ((askFifoStatus s).setAnswers as)) := by
  rw [readSamples, if_neg hmode, onAnswer_ok (s := askFifoStatus s) ha hl]
  exact if_neg hn

/-- With no answer the burst is outstanding (R67). -/
theorem readBurst_nil {s : State} (ha : s.answers = []) : readBurst s = .next (askBurst s) :=
  onAnswer_nil ha

/-- The burst request of a number of records that `ALEN` can hold (R116). -/
theorem reqBurst_ofNat (p : Params) {n : Nat} (hn : n < 64) :
    reqBurst p (BitVec.ofNat 6 n) = ⟨.read, p.addrDataX0, BitVec.ofNat 16 (6 * n)⟩ := by
  have hlen : burstLen (BitVec.ofNat 6 n) = BitVec.ofNat 16 (6 * n) := by
    apply BitVec.eq_of_toNat_eq
    rw [burstLen_toNat, BitVec.toNat_ofNat, BitVec.toNat_ofNat, Nat.mod_eq_of_lt hn, Nat.mod_eq_of_lt (by omega)]
  rw [reqBurst, hlen]

/-- `ALEN` is not zero when neither `LEN` nor the count is (R114, R115). -/
theorem actualLen_ne_zero {len : BitVec 16} {q : Byte} (hlen : len ≠ 0) (hq : q.toNat % 64 ≠ 0) :
    actualLen len (fifoStatusCount q) ≠ 0 := by
  have hpos : len.toNat ≠ 0 := fun h => hlen (BitVec.eq_of_toNat_eq h)
  intro h
  have hzero : (BitVec.ofNat 6 (min len.toNat (q.toNat % 64))).toNat = 0 := by rw [← actualLen_eq, h]; rfl
  rw [BitVec.toNat_ofNat] at hzero
  omega

/-- Settles O36: the checks pass, both resolver reads and the count are answered, and the burst is not. -/
theorem readWaitsForTheBurst : Obligations.ReadWaitsForTheBurst := by
  unfold Obligations.ReadWaitsForTheBurst
  intro s len c f q hlen hmode hq ha
  have hcount := actualLen_ne_zero hlen hq
  have hreq := reqBurst_ofNat s.par (n := min len.toNat (q.toNat % 64)) (by omega)
  have htrace (x y : PortItem) : s.trace ++ resolverRequests s.par ++ [x] ++ [y] =
      s.trace ++ (resolverRequests s.par ++ [x, y]) := by simp
  calc exec (.read ⟨true, true⟩ len) s
      = resolveSeq (acceptRead ⟨true, true⟩ len s) readSamples := execRead_of_good hlen s
    _ = readSamples (afterResolver (acceptRead ⟨true, true⟩ len s) c f [.ok [q]]) := resolveSeq_ok _ c f _ _ ha
    _ = readBurst (gotFifoStatus [q]
          ((askFifoStatus (afterResolver (acceptRead ⟨true, true⟩ len s) c f [.ok [q]])).setAnswers [])) :=
        readSamples_of_count hmode rfl rfl hcount
    _ = _ := by
        rw [readBurst_nil rfl, ← hreq, ← actualLen_eq, ← htrace]
        rfl

/-! ## The burst answer -/

/-- The burst answer of the length asked is placed in `BUF`, and the decode begins (row `BURST` of R121). -/
theorem tick_of_burst_ok {s : State} {bs : List Byte} {as : List Answer} (hrst : s.rst = false)
    (hphase : s.phase = .burst) (hop : s.regs.op = .read) (ha : s.answers = .ok bs :: as)
    (hl : bs.length = 6 * s.regs.alen.toNat) : tick s = .next (gotBurst bs (s.setAnswers as)) := by
  have hrow : tick s = tickBurst s := by simp [tick, hrst, hphase]
  rw [hrow, tickBurst, hop]
  exact onAnswer_ok ha (hl.trans (burstLen_toNat _).symm)

/-- A burst answer fits in `BUF`, since `ALEN` is at most 63 (R9, R59). -/
theorem burst_length_le_bufBytes {bs : List Byte} {n : BitVec 6} (h : bs.length = 6 * n.toNat) :
    bs.length ≤ bufBytes := by
  have := n.isLt
  unfold bufBytes
  omega

/-- Settles O38: the transition loads the answer into `BUF` from its start, where it fits. -/
theorem burstFillsTheBuffer : Obligations.BurstFillsTheBuffer := by
  unfold Obligations.BurstFillsTheBuffer
  intro s bs as hrst hphase hop ha hl
  have hbyte := writeBuf_getElem? s.regs.buf bs (burst_length_le_bufBytes hl)
  refine ⟨_, tick_of_burst_ok hrst hphase hop ha hl, rfl, fun k hk => ?_, fun k hk => ?_⟩
  · exact (hbyte k).trans (if_pos hk)
  · exact (hbyte k).trans (if_neg (by omega))

end Sys2Proof.Machine
end

section
/-! The requests of `READ` and `RESOLVE` when an answer fails (R66, R181) or does not come (R67): what each piece of the
two operations does at each of its requests, and the two statements assembled from these. -/

namespace Sys2Proof.Machine

/-! ## The first failed answer -/

/-- `t` is `s` after the items `l` have passed, with answers consumed and registers written on the way. -/
structure PassedSince (s : State) (l : List PortItem) (t : State) : Prop where
  par : t.par = s.par
  cmds : t.cmds = s.cmds
  takes : t.takes = s.takes
  rst : t.rst = s.rst
  draws : t.draws = s.draws
  trace : t.trace = s.trace ++ l

/-- An operation that ends after the items `l` have passed ends as from its start, with `l` first. -/
theorem PassedSince.ended_eq {s t : State} {l : List PortItem} (h : PassedSince s l t) (items : List PortItem)
    (as : List Answer) (n : Nat) : ended t items as n = ended s (l ++ items) as n := by
  simp [ended, h.par, h.cmds, h.rst, h.draws, h.trace]

/-- The answer to the last request fails: the operation ends there (R66, R186). -/
theorem PassedSince.onAnswer_fail {s t : State} {l : List PortItem} (h : PassedSince s l t) {n : Nat}
    {k : List Byte → State → Out} {as : List Answer} (ha : t.answers = .fail :: as) :
    onAnswer n t k = .next (ended s (l ++ [errorItem .transportError]) as s.takes) := by
  rw [Machine.onAnswer_fail ha, ← h.ended_eq, ← h.takes]
  rfl

/-- One request passes. -/
theorem PassedSince.ask (s : State) (p : Phase) (r : Request) : PassedSince s [.request r] (ask p r s) :=
  ⟨rfl, rfl, rfl, rfl, rfl, rfl⟩

/-- A failed first resolver read: the second is not issued (R102, D7). -/
theorem resolveSeq_of_first_fails {s : State} {as : List Answer} (k : State → Out) (ha : s.answers = .fail :: as) :
    resolveSeq s k =
      .next (ended s ((resolverRequests s.par).take 1 ++ [errorItem .transportError]) as s.takes) := by
  unfold resolveSeq resolverRequests
  cases s.par.order with
  | ctlFirst => exact (PassedSince.ask ..).onAnswer_fail ha
  | fmtFirst => exact (PassedSince.ask ..).onAnswer_fail ha

/-- A failed second resolver read (R102, D7). -/
theorem resolveSeq_of_second_fails {s : State} {c f : Byte} {as : List Answer} (k : State → Out)
    (ha : s.answers = (resolverAnswers s.par c f).take 1 ++ .fail :: as) :
    resolveSeq s k = .next (ended s (resolverRequests s.par ++ [errorItem .transportError]) as s.takes) := by
  unfold resolverAnswers at ha
  unfold resolveSeq resolverRequests
  cases horder : s.par.order with
  | ctlFirst =>
    rw [horder] at ha
    have h (bs) : PassedSince s [.request (reqFifoCtl s.par), .request (reqDataFormat s.par)]
        (askDataFormat (gotFifoCtl bs ((askFifoCtl s).setAnswers (.fail :: as)))) :=
      ⟨rfl, rfl, rfl, rfl, rfl, by simp⟩
    exact (onAnswer_ok (s := askFifoCtl s) ha rfl).trans ((h _).onAnswer_fail rfl)
  | fmtFirst =>
    rw [horder] at ha
    have h (bs) : PassedSince s [.request (reqDataFormat s.par), .request (reqFifoCtl s.par)]
        (askFifoCtl (gotDataFormat bs ((askDataFormat s).setAnswers (.fail :: as)))) :=
      ⟨rfl, rfl, rfl, rfl, rfl, by simp⟩
    exact (onAnswer_ok (s := askDataFormat s) ha rfl).trans ((h _).onAnswer_fail rfl)

/-- A failed burst (R181). -/
theorem readBurst_of_fail {s : State} {as : List Answer} (ha : s.answers = .fail :: as) :
    readBurst s =
      .next (ended s [.request (reqBurst s.par s.regs.alen), errorItem .transportError] as s.takes) :=
  (PassedSince.ask ..).onAnswer_fail ha

/-- A failed burst in Bypass mode, where it is of one record (R112, R181). -/
theorem readSamples_of_bypass_fails {s : State} {as : List Answer} (hmode : cfgMode s.par s.regs.cfg = .bypass)
    (ha : s.answers = .fail :: as) :
    readSamples s = .next (ended s [.request (reqBurst s.par 1), errorItem .transportError] as s.takes) :=
  (if_pos hmode).trans (readBurst_of_fail (s := s.setAlen 1) ha)

/-- A failed read of the count (R181). -/
theorem readSamples_of_count_fails {s : State} {as : List Answer} (hmode : cfgMode s.par s.regs.cfg ≠ .bypass)
    (ha : s.answers = .fail :: as) :
    readSamples s =
      .next (ended s [.request (reqFifoStatus s.par), errorItem .transportError] as s.takes) :=
  (if_neg hmode).trans ((PassedSince.ask ..).onAnswer_fail ha)

/-- A failed burst after the count was read (R181). -/
theorem readSamples_of_burst_fails {s : State} {bs : List Byte} {as : List Answer}
    (hmode : cfgMode s.par s.regs.cfg ≠ .bypass) (ha : s.answers = .ok bs :: .fail :: as) (hl : bs.length = 1)
    (hn : actualLen s.regs.len (fifoStatusCount (firstByte bs)) ≠ 0) :
    readSamples s =
      .next (ended s [.request (reqFifoStatus s.par),
        .request (reqBurst s.par (actualLen s.regs.len (fifoStatusCount (firstByte bs)))),
        errorItem .transportError] as s.takes) := by
  have h : PassedSince s [.request (reqFifoStatus s.par)]
      (gotFifoStatus bs ((askFifoStatus s).setAnswers (.fail :: as))) := ⟨rfl, rfl, rfl, rfl, rfl, rfl⟩
  rw [readSamples_of_count hmode ha hl hn, readBurst_of_fail rfl, h.ended_eq]
  rfl

/-- A `READ` whose resolver reads are answered ends as the rest of it ends, with the resolver requests first (R111). -/
theorem execRead_of_ended {s : State} {len : BitVec 16} {c f : Byte} {as bs : List Answer} {items : List PortItem}
    (hlen : len ≠ 0) (ha : s.answers = resolverAnswers s.par c f ++ as)
    (hend : readSamples (afterResolver (acceptRead ⟨true, true⟩ len s) c f as) =
      .next (ended (afterResolver (acceptRead ⟨true, true⟩ len s) c f as) items bs s.takes)) :
    execRead ⟨true, true⟩ len s = .next (ended s (resolverRequests s.par ++ items) bs s.takes) := by
  have h : PassedSince s (resolverRequests s.par) (afterResolver (acceptRead ⟨true, true⟩ len s) c f as) :=
    ⟨rfl, rfl, rfl, rfl, rfl, rfl⟩
  rw [execRead_of_good hlen, resolveSeq_ok (acceptRead _ _ s) c f as _ ha, hend, h.ended_eq]

/-- Settles O28: the checks pass, and each of the five requests has its own failure. -/
theorem readStopsAtTheFirstFailure : Obligations.ReadStopsAtTheFirstFailure := by
  unfold Obligations.ReadStopsAtTheFirstFailure
  intro s len c f q as hlen
  refine ⟨fun ha => ?_, fun ha => ?_, fun hmode ha => ?_, fun hmode ha => ?_, fun hmode hcount ha => ?_⟩
  · exact (execRead_of_good hlen s).trans (resolveSeq_of_first_fails _ ha)
  · exact (execRead_of_good hlen s).trans (resolveSeq_of_second_fails _ ha)
  · exact execRead_of_ended hlen ha (readSamples_of_bypass_fails hmode rfl)
  · exact execRead_of_ended hlen ha (readSamples_of_count_fails hmode rfl)
  · exact execRead_of_ended hlen ha (readSamples_of_burst_fails (bs := [q]) hmode rfl rfl hcount)

/-! ## The answer that does not come -/

/-- `RESOLVE` with a good handle passes its checks (R184). -/
theorem execResolve_of_good (s : State) :
    execResolve ⟨true, true⟩ s =
      resolveSeq (acceptResolve ⟨true, true⟩ s) fun s => .next (completeResolve s) :=
  checked_of_checkFailure_none (checkFailure_eq_none.mpr ⟨rfl, rfl, fun h => by cases h⟩) _

/-- With no answer the first resolver read is outstanding (R67). -/
theorem resolveSeq_nil {s : State} (k : State → Out) (horder : s.par.order = .ctlFirst) (ha : s.answers = []) :
    resolveSeq s k = .next (askFifoCtl s) := by
  rw [resolveSeq, horder]
  exact onAnswer_nil ha

/-- With one answer the second resolver read is outstanding, and the mode is in `CFG` (assumption 5). -/
theorem resolveSeq_singleton {s : State} {c : Byte} (k : State → Out) (horder : s.par.order = .ctlFirst)
    (ha : s.answers = [.ok [c]]) :
    resolveSeq s k = .next (askDataFormat (gotFifoCtl [c] ((askFifoCtl s).setAnswers []))) := by
  rw [resolveSeq, horder]
  exact (onAnswer_ok (s := askFifoCtl s) ha rfl).trans (onAnswer_nil rfl)

/-- Settles O32: the two operations wait in the same two places, each with its own latch. -/
theorem resolverWaitsForItsAnswers : Obligations.ResolverWaitsForItsAnswers := by
  unfold Obligations.ResolverWaitsForItsAnswers
  intro s len c horder hlen
  have htrace (x y : PortItem) : s.trace ++ [x, y] = s.trace ++ [x] ++ [y] := by simp
  have hresolve : exec (.resolve ⟨true, true⟩) s = _ := execResolve_of_good s
  have hread : exec (.read ⟨true, true⟩ len) s = _ := execRead_of_good hlen s
  rw [hresolve, hread, htrace]
  refine ⟨fun ha => ⟨?_, ?_⟩, fun ha => ⟨?_, ?_⟩⟩
  · exact resolveSeq_nil _ horder ha
  · exact resolveSeq_nil _ horder ha
  · exact resolveSeq_singleton _ horder ha
  · exact resolveSeq_singleton _ horder ha

end Sys2Proof.Machine
end

section
/-! What a step can do at the ports (R18, R22, R53, R61, R62). `Follows a l s` says how a state `s` in the course of an
operation relates to the state `a` the step began in, with `l` the requests made since. Each shared operation of the
model has one rule, and the four commands are assembled from the rules. -/

namespace Sys2Proof.Machine

variable {a s t : State} {l : List Request} {Q : List Request → Prop}

/-! ## States in the course of an operation -/

/-- The five requests of R52, the burst not an empty one. -/
inductive IsBlockRequest (p : Params) : Request → Prop
  | fifoCtl : IsBlockRequest p (reqFifoCtl p)
  | dataFormat : IsBlockRequest p (reqDataFormat p)
  | fifoStatus : IsBlockRequest p (reqFifoStatus p)
  | burst (n : BitVec 6) (hn : n ≠ 0) : IsBlockRequest p (reqBurst p n)
  | intSource : IsBlockRequest p (reqIntSource p)

/-- `s` comes after `a` in a step that has made the requests `l` since: the parameters are kept, inputs are only
consumed, in order, what had passed at the ports stays, and the outstanding request, if any, passed last. -/
structure Follows (a : State) (l : List Request) (s : State) : Prop where
  par : s.par = a.par
  cmds : s.cmds <:+ a.cmds
  answers : s.answers <:+ a.answers
  takes : s.takes ≤ a.takes
  rst : a.rst = false → s.rst = false
  trace : ∃ items, s.trace = a.trace ++ items ∧ requestsIn items = l
  stands : RequestStands a → RequestStands s

/-- A step begins with no request made. -/
theorem Follows.start (a : State) : Follows a [] a :=
  ⟨rfl, List.suffix_rfl, List.suffix_rfl, le_rfl, id, ⟨[], by simp⟩, id⟩

/-- The registers are written in a phase with no request outstanding. -/
theorem Follows.work (h : Follows a l s) (ht : t = { s with phase := t.phase, regs := t.regs })
    (hport : t.requestPort = none) : Follows a l t := by
  rw [ht] at hport ⊢
  exact ⟨h.par, h.cmds, h.answers, h.takes, h.rst, h.trace, fun _ => requestStands_of_requestPort_none hport⟩

/-- Registers are written that the outstanding request does not depend on. -/
theorem Follows.write (h : Follows a l s) (ht : t = { s with regs := t.regs })
    (hport : t.requestPort = s.requestPort) : Follows a l t := by
  have hstands : RequestStands s → RequestStands t := by
    intro hs r hr
    rw [hport] at hr
    rw [ht]
    exact hs r hr
  rw [ht] at hstands ⊢
  exact ⟨h.par, h.cmds, h.answers, h.takes, h.rst, h.trace, fun ha => hstands (h.stands ha)⟩

theorem Follows.gotFifoCtl (h : Follows a l s) (bs : List Byte) : Follows a l (gotFifoCtl bs s) := h.write rfl rfl

theorem Follows.gotDataFormat (h : Follows a l s) (bs : List Byte) : Follows a l (gotDataFormat bs s) :=
  h.write rfl rfl

/-- `ALEN` is written in a phase whose request does not depend on it. -/
theorem Follows.gotFifoStatus (h : Follows a l s) (bs : List Byte) (hphase : s.phase = .stat) :
    Follows a l (gotFifoStatus bs s) :=
  h.write rfl (by simp [State.requestPort, hphase])

/-- An answer is consumed. -/
theorem Follows.setAnswers (h : Follows a l s) {as : List Answer} (has : as <:+ s.answers) :
    Follows a l (s.setAnswers as) :=
  ⟨h.par, h.cmds, has.trans h.answers, h.takes, h.rst, h.trace, h.stands⟩

/-- A command leaves the port. -/
theorem Follows.setCmds (h : Follows a l s) {ws : List Command} (hws : ws <:+ s.cmds) : Follows a l (s.setCmds ws) :=
  ⟨h.par, hws.trans h.cmds, h.answers, h.takes, h.rst, h.trace, h.stands⟩

/-- The reset input takes effect (R211). -/
theorem Follows.applyReset (h : Follows a l s) : Follows a l s.applyReset :=
  ⟨h.par, h.cmds, h.answers, h.takes, fun _ => rfl, h.trace, fun _ => requestStands_of_requestPort_none rfl⟩

/-- A request is made, and stands. -/
theorem Follows.request (h : Follows a l s) (q : Request)
    (ht : t = { s with phase := t.phase, regs := t.regs, trace := s.trace ++ [.request q] })
    (hport : t.requestPort = some q) : Follows a (l ++ [q]) t := by
  obtain ⟨items, htrace, hl⟩ := h.trace
  rw [ht] at hport ⊢
  refine ⟨h.par, h.cmds, h.answers, h.takes, h.rst, ⟨items ++ [.request q], by simp [htrace], by simp [hl]⟩, ?_⟩
  intro _ r hr
  rw [hport] at hr
  cases hr
  simp

/-- Something else passes, with no request outstanding after it: an event, for which a take is consumed, or the
completion. -/
theorem Follows.pass (h : Follows a l s) (x : PortItem) (hx : requestsIn [x] = []) (htakes : t.takes ≤ s.takes)
    (ht : t = { s with
      phase := t.phase, regs := t.regs, trace := s.trace ++ [x], takes := t.takes, draws := t.draws })
    (hport : t.requestPort = none) : Follows a l t := by
  obtain ⟨items, htrace, hl⟩ := h.trace
  rw [ht] at htakes hport ⊢
  exact ⟨h.par, h.cmds, h.answers, htakes.trans h.takes, h.rst, ⟨items ++ [x], by simp [htrace], by simp [hx, hl]⟩,
    fun _ => requestStands_of_requestPort_none hport⟩

/-- The operation ends (R87, R186). -/
theorem Follows.finish (h : Follows a l s) (v : Status) (n : Option (BitVec 6)) (c : Option CfgWord)
    (rs : List Record) : Follows a l (finish v n c rs s) := by
  rw [finish_eq_ended]
  exact h.pass (.completion ⟨v, n, c, rs⟩) rfl (by simp) rfl rfl

/-! ## The loops -/

/-- One record is decoded (R133). -/
theorem Follows.decodeInto (h : Follows a l s) (i : Nat) (hphase : s.phase = .dec) : Follows a l (decodeInto i s) := by
  rw [decodeInto_eq]
  exact h.write rfl (by simp [State.requestPort, hphase])

/-- One pass of the decode loop (R121). -/
theorem Follows.decodeNext (h : Follows a l s) (hphase : s.phase = .dec) : Follows a l (decodeNext s) :=
  (h.decodeInto _ hphase).write rfl (by simp [State.requestPort, hphase])

/-- The decode loop passes nothing. -/
theorem Follows.decodeRecords (n : Nat) (h : Follows a l s) (hphase : s.phase = .dec) :
    Follows a l (decodeRecords n s) := by
  induction n generalizing s with
  | zero => exact h
  | succ n ih => exact ih (h.decodeNext hphase) ((decodeNext_phase s).trans hphase)

/-- The event loop passes events and the completion. -/
theorem Follows.emitPending (n : Nat) (h : Follows a l s) : Follows a l (emitPending n s) := by
  induction n generalizing s with
  | zero => exact h
  | succ n ih =>
    cases hk : highestBit s.regs.pend with
    | none =>
      rw [emitPending_none hk]
      exact h.finish _ _ _ _
    | some k =>
      have hpresent : Follows a l (present k s) := h.work rfl rfl
      by_cases htakes : s.takes = 0
      · rw [emitPending_hold hk htakes]
        exact hpresent
      · rw [emitPending_take hk htakes]
        exact ih (hpresent.pass (.event k) rfl (Nat.sub_le _ _) rfl rfl)

/-! ## What an outcome can be -/

/-- If the outcome is a next state, it comes after `a`, and the requests made since meet `Q`. -/
def Reaches (a : State) (Q : List Request → Prop) (o : Out) : Prop :=
  ∀ t, o = .next t → ∃ l, Follows a l t ∧ Q l

theorem reaches_next (h : Follows a l s) (hl : Q l) : Reaches a Q (.next s) := by
  intro t ht
  cases ht
  exact ⟨l, h, hl⟩

theorem reaches_fault (r : Fault) : Reaches a Q (.fault r) := fun _ h => by cases h

/-- The checks end the operation or let it go on (R184). -/
theorem reaches_checked {k : State → Out} (h : Follows a l s) (hl : Q l) (hk : Reaches a Q (k s)) :
    Reaches a Q (checked s k) := by
  obtain ⟨e, -, hs⟩ | ⟨-, hs⟩ := checked_cases s k
  · rw [hs]
    exact reaches_next (h.finish _ _ _ _) hl
  · rw [hs]
    exact hk

/-- The block waits, ends the operation, or goes on with an answer consumed (R66, R67). -/
theorem reaches_onAnswer {n : Nat} {k : List Byte → State → Out} (h : Follows a l s) (hl : Q l)
    (hk : ∀ bs as, Follows a l (s.setAnswers as) → Reaches a Q (k bs (s.setAnswers as))) :
    Reaches a Q (onAnswer n s k) := by
  obtain ⟨-, hs⟩ | ⟨as, ha, hs⟩ | ⟨bs, as, ha, -, hs⟩ | ⟨bs, as, -, -, hs⟩ := onAnswer_cases n s k
  · rw [hs]
    exact reaches_next h hl
  · rw [hs]
    exact reaches_next ((h.setAnswers (ha ▸ List.suffix_cons ..)).finish _ _ _ _) hl
  · rw [hs]
    exact hk bs as (h.setAnswers (ha ▸ List.suffix_cons ..))
  · rw [hs]
    intro t ht
    cases ht

/-! ## The commands -/

/-- The requests of R62: what a command has made so far is the beginning of its sequence. -/
def RequestRule (p : Params) : Instr → List Request → Prop
  | .resolve _, l => l <+: requestsIn (resolverRequests p)
  | .read _ _, l =>
    l <+: requestsIn (resolverRequests p) ++ [reqBurst p 1] ∨
      ∃ n, n ≠ 0 ∧ l <+: requestsIn (resolverRequests p) ++ [reqFifoStatus p, reqBurst p n]
  | .decode _ _, l => l = []
  | .dispatch _, l => l <+: [reqIntSource p]

/-- The two resolver requests, mode first (R102). -/
theorem requestsIn_resolverRequests_of_ctlFirst {p : Params} (h : p.order = .ctlFirst) :
    requestsIn (resolverRequests p) = [reqFifoCtl p, reqDataFormat p] := by simp [resolverRequests, h]

/-- The two resolver requests, format first (D7). -/
theorem requestsIn_resolverRequests_of_fmtFirst {p : Params} (h : p.order = .fmtFirst) :
    requestsIn (resolverRequests p) = [reqDataFormat p, reqFifoCtl p] := by simp [resolverRequests, h]

/-- The resolver makes its two requests, or stops on the way (R102). -/
theorem reaches_resolveSeq {k : State → Out} (h : Follows a [] s)
    (hQ : ∀ l, l <+: requestsIn (resolverRequests a.par) → Q l)
    (hk : ∀ t, Follows a (requestsIn (resolverRequests a.par)) t → Reaches a Q (k t)) :
    Reaches a Q (resolveSeq s k) := by
  rw [← h.par] at hQ hk
  unfold resolveSeq
  cases horder : s.par.order with
  | ctlFirst =>
    rw [requestsIn_resolverRequests_of_ctlFirst horder] at hQ hk
    refine reaches_onAnswer (h.request (reqFifoCtl s.par) rfl rfl) (hQ _ (by simp)) fun c as h => ?_
    refine reaches_onAnswer ((h.gotFifoCtl c).request (reqDataFormat s.par) rfl rfl) (hQ _ (by simp)) fun f as h => ?_
    exact hk _ (h.gotDataFormat f)
  | fmtFirst =>
    rw [requestsIn_resolverRequests_of_fmtFirst horder] at hQ hk
    refine reaches_onAnswer (h.request (reqDataFormat s.par) rfl rfl) (hQ _ (by simp)) fun f as h => ?_
    refine reaches_onAnswer ((h.gotDataFormat f).request (reqFifoCtl s.par) rfl rfl) (hQ _ (by simp)) fun c as h => ?_
    exact hk _ (h.gotFifoCtl c)

theorem reaches_execResolve (h : Follows a [] s) (hd : Handle) :
    Reaches a (RequestRule a.par (.resolve hd)) (execResolve hd s) := by
  unfold execResolve
  have haccept : Follows a [] (acceptResolve hd s) := h.work rfl rfl
  refine reaches_checked haccept List.nil_prefix (reaches_resolveSeq haccept (fun l hl => hl) fun t h => ?_)
  exact reaches_next (h.finish _ _ _ _) List.prefix_rfl

/-- The burst makes its one request, whatever its length (R116). -/
theorem reaches_readBurst (h : Follows a l (askBurst s)) (hl : Q l) : Reaches a Q (readBurst s) :=
  reaches_onAnswer h hl fun _ _ h => reaches_next (((h.work rfl rfl).decodeRecords _ rfl).finish _ _ _ _) hl

/-- After the resolver sequence `READ` makes the burst alone, or reads the count first (R112, R113, R115). -/
theorem reaches_readSamples (h : Follows a (requestsIn (resolverRequests a.par)) s) (hd : Handle) (len : BitVec 16) :
    Reaches a (RequestRule a.par (.read hd len)) (readSamples s) := by
  have hpar := h.par
  rw [← hpar] at h ⊢
  unfold readSamples
  split
  next => exact reaches_readBurst (h.request (reqBurst s.par 1) rfl rfl) (.inl List.prefix_rfl)
  next =>
    refine reaches_onAnswer (h.request (reqFifoStatus s.par) rfl rfl) (.inr ⟨1, by decide, by simp⟩) fun bs as h => ?_
    simp only
    split
    next =>
      exact reaches_next ((h.gotFifoStatus bs rfl).finish _ _ _ _) (.inr ⟨1, by decide, by simp⟩)
    next hn =>
      exact reaches_readBurst ((h.gotFifoStatus bs rfl).request (reqBurst s.par _) rfl rfl) (.inr ⟨_, hn, by simp⟩)

theorem reaches_execRead (h : Follows a [] s) (hd : Handle) (len : BitVec 16) :
    Reaches a (RequestRule a.par (.read hd len)) (execRead hd len s) := by
  unfold execRead
  have haccept : Follows a [] (acceptRead hd len s) := h.work rfl rfl
  refine reaches_checked haccept (.inl List.nil_prefix) (reaches_resolveSeq haccept (fun l hl => ?_) fun t h => ?_)
  · exact .inl (hl.trans (List.prefix_append ..))
  · exact reaches_readSamples h hd len

/-- `DECODE` makes no request (R132). -/
theorem reaches_execDecode (h : Follows a [] s) (opcfg : CfgWord) (opb : BitVec 48) :
    Reaches a (RequestRule a.par (.decode opcfg opb)) (execDecode opcfg opb s) := by
  rw [execDecode, decodeOperand_eq_ended, ← finish_eq_ended]
  exact reaches_next (Follows.finish (h.work rfl rfl) _ _ _ _) rfl

theorem reaches_execDispatch (h : Follows a [] s) (hd : Handle) :
    Reaches a (RequestRule a.par (.dispatch hd)) (execDispatch hd s) := by
  rw [← h.par]
  unfold execDispatch
  have haccept : Follows a [] (acceptDispatch hd s) := h.work rfl rfl
  refine reaches_checked haccept List.nil_prefix ?_
  refine reaches_onAnswer (haccept.request (reqIntSource s.par) rfl rfl) List.prefix_rfl fun bs as h => ?_
  exact reaches_next ((h.work rfl rfl).emitPending _) List.prefix_rfl

/-- What a command has passed and consumed when it ends or first waits. -/
theorem reaches_exec (h : Follows a [] s) (i : Instr) : Reaches a (RequestRule a.par i) (exec i s) := by
  cases i with
  | resolve hd => exact reaches_execResolve h hd
  | read hd len => exact reaches_execRead h hd len
  | decode opcfg opb => exact reaches_execDecode h opcfg opb
  | dispatch hd => exact reaches_execDispatch h hd

end Sys2Proof.Machine
end

section
/-! What a step can do at the ports, continued: the transitions of the tables R121 and R169, one lemma for each phase,
and the step, with the statements read off it. -/

namespace Sys2Proof.Machine

variable {a s t : State} {l : List Request}

/-! ## The transitions -/

/-- Every request made since is one of the five. -/
def OnlyBlockRequests (p : Params) (l : List Request) : Prop := ∀ q ∈ l, IsBlockRequest p q

theorem onlyBlockRequests_nil (p : Params) : OnlyBlockRequests p [] := fun q hq => by cases hq

theorem OnlyBlockRequests.append {p : Params} {q : Request} (hl : OnlyBlockRequests p l) (hq : IsBlockRequest p q) :
    OnlyBlockRequests p (l ++ [q]) := by
  intro r hr
  obtain hr | hr := List.mem_append.mp hr
  · exact hl r hr
  · exact List.mem_singleton.mp hr ▸ hq

theorem onlyBlockRequests_resolver (p : Params) : OnlyBlockRequests p (requestsIn (resolverRequests p)) := by
  cases horder : p.order with
  | ctlFirst =>
    rw [requestsIn_resolverRequests_of_ctlFirst horder]
    exact ((onlyBlockRequests_nil p).append .fifoCtl).append .dataFormat
  | fmtFirst =>
    rw [requestsIn_resolverRequests_of_fmtFirst horder]
    exact ((onlyBlockRequests_nil p).append .dataFormat).append .fifoCtl

/-- The requests of a command's sequence are among the five (R52). -/
theorem RequestRule.onlyBlockRequests {p : Params} {i : Instr} (h : RequestRule p i l) : OnlyBlockRequests p l := by
  have hresolver := onlyBlockRequests_resolver p
  have hprefix {m : List Request} (hm : OnlyBlockRequests p m) (hl : l <+: m) : OnlyBlockRequests p l :=
    fun q hq => hm q (hl.subset hq)
  cases i with
  | resolve hd => exact hprefix hresolver h
  | read hd len =>
    obtain hl | ⟨n, hn, hl⟩ := h
    · exact hprefix (hresolver.append (.burst 1 (by decide))) hl
    · refine hprefix ((hresolver.append .fifoStatus).append (.burst n hn)) ?_
      simpa using hl
  | decode opcfg opb =>
    have hl : l = [] := h
    exact hl ▸ onlyBlockRequests_nil p
  | dispatch hd => exact hprefix ((onlyBlockRequests_nil p).append .intSource) h

/-- A request among the five is made: the transition ends waiting for its answer. -/
theorem reaches_request (h : Follows a l s) (hl : OnlyBlockRequests a.par l) (q : Request)
    (ht : t = { s with phase := t.phase, regs := t.regs, trace := s.trace ++ [.request q] })
    (hport : t.requestPort = some q) (hq : IsBlockRequest s.par q) :
    Reaches a (OnlyBlockRequests a.par) (.next t) :=
  reaches_next (h.request q ht hport) (hl.append (h.par ▸ hq))

section

variable (h : Follows a l s) (hl : OnlyBlockRequests a.par l)
include h hl

theorem reaches_firstRequest : Reaches a (OnlyBlockRequests a.par) (.next (firstRequest s)) := by
  unfold firstRequest
  cases s.par.order with
  | ctlFirst => exact reaches_request h hl (reqFifoCtl s.par) rfl rfl .fifoCtl
  | fmtFirst => exact reaches_request h hl (reqDataFormat s.par) rfl rfl .dataFormat

theorem reaches_tickIdle : Reaches a (OnlyBlockRequests a.par) (tickIdle s) := by
  unfold tickIdle
  split
  next => exact reaches_next h hl
  next w rest hc =>
    have hcmds : Follows a l (s.setCmds rest) := h.setCmds (hc ▸ List.suffix_cons ..)
    rw [accept_latchWord]
    refine reaches_next (hcmds.work rfl ?_) hl
    split <;> rfl

theorem reaches_tickChk : Reaches a (OnlyBlockRequests a.par) (tickChk s) := by
  unfold tickChk
  cases s.regs.op with
  | resolve => exact reaches_checked h hl (reaches_firstRequest h hl)
  | read => exact reaches_checked h hl (reaches_firstRequest h hl)
  | decode => exact reaches_fault _
  | dispatch =>
    exact reaches_checked h hl (reaches_request h hl (reqIntSource s.par) rfl rfl .intSource)

/-- The resolver sequence is over: the completion of `RESOLVE`, or the next request of `READ`. -/
theorem reaches_resolved (p : Phase) : Reaches a (OnlyBlockRequests a.par) (resolved p s) := by
  unfold resolved
  cases s.regs.op with
  | resolve => exact reaches_next (h.finish _ _ _ _) hl
  | read =>
    simp only
    split
    next =>
      exact reaches_request h hl (reqBurst s.par 1) rfl rfl (.burst 1 (by decide))
    next => exact reaches_request h hl (reqFifoStatus s.par) rfl rfl .fifoStatus
  | decode => exact reaches_fault _
  | dispatch => exact reaches_fault _

theorem reaches_tickRes0 : Reaches a (OnlyBlockRequests a.par) (tickRes0 s) := by
  refine reaches_onAnswer h hl fun bs as h => ?_
  split
  next =>
    exact reaches_request (h.gotFifoCtl bs) hl (reqDataFormat s.par) rfl rfl .dataFormat
  next => exact reaches_resolved (h.gotFifoCtl bs) hl _

theorem reaches_tickRes1 : Reaches a (OnlyBlockRequests a.par) (tickRes1 s) := by
  refine reaches_onAnswer h hl fun bs as h => ?_
  split
  next => exact reaches_resolved (h.gotDataFormat bs) hl _
  next => exact reaches_request (h.gotDataFormat bs) hl (reqFifoCtl s.par) rfl rfl .fifoCtl

theorem reaches_tickStat (hphase : s.phase = .stat) : Reaches a (OnlyBlockRequests a.par) (tickStat s) := by
  unfold tickStat
  cases s.regs.op with
  | read =>
    refine reaches_onAnswer h hl fun bs as h => ?_
    have hcount := h.gotFifoStatus bs hphase
    simp only
    split
    next => exact reaches_next (hcount.finish _ _ _ _) hl
    next hn =>
      exact reaches_request hcount hl (reqBurst s.par _) rfl rfl (.burst _ hn)
  | resolve => exact reaches_fault _
  | decode => exact reaches_fault _
  | dispatch => exact reaches_fault _

theorem reaches_tickBurst : Reaches a (OnlyBlockRequests a.par) (tickBurst s) := by
  unfold tickBurst
  cases s.regs.op with
  | read => exact reaches_onAnswer h hl fun bs as h => reaches_next (h.work rfl rfl) hl
  | resolve => exact reaches_fault _
  | decode => exact reaches_fault _
  | dispatch => exact reaches_fault _

theorem reaches_tickDec (hphase : s.phase = .dec) : Reaches a (OnlyBlockRequests a.par) (tickDec s) := by
  unfold tickDec
  cases s.regs.op with
  | decode =>
    simp only
    rw [decodeOperand_eq_ended, ← finish_eq_ended]
    exact reaches_next (h.finish _ _ _ _) hl
  | read =>
    simp only
    split_ifs
    · exact reaches_next (h.decodeNext hphase) hl
    · exact reaches_next ((h.decodeInto _ hphase).finish _ _ _ _) hl
    · exact reaches_fault _
  | resolve => exact reaches_fault _
  | dispatch => exact reaches_fault _

theorem reaches_tickSrcrd : Reaches a (OnlyBlockRequests a.par) (tickSrcrd s) := by
  unfold tickSrcrd
  cases s.regs.op with
  | dispatch => exact reaches_onAnswer h hl fun bs as h => reaches_next (h.work rfl rfl) hl
  | resolve => exact reaches_fault _
  | read => exact reaches_fault _
  | decode => exact reaches_fault _

theorem reaches_tickScan : Reaches a (OnlyBlockRequests a.par) (tickScan s) := by
  unfold tickScan
  cases s.regs.op with
  | dispatch =>
    cases highestBit s.regs.pend with
    | none => exact reaches_next (h.finish _ _ _ _) hl
    | some k => exact reaches_next (h.work rfl rfl) hl
  | resolve => exact reaches_fault _
  | read => exact reaches_fault _
  | decode => exact reaches_fault _

theorem reaches_tickEmit : Reaches a (OnlyBlockRequests a.par) (tickEmit s) := by
  unfold tickEmit
  cases s.regs.op with
  | dispatch =>
    simp only
    split
    next => exact reaches_next h hl
    next => exact reaches_next (h.pass (.event s.regs.k) rfl (Nat.sub_le _ _) rfl rfl) hl
  | resolve => exact reaches_fault _
  | read => exact reaches_fault _
  | decode => exact reaches_fault _

theorem reaches_tick : Reaches a (OnlyBlockRequests a.par) (tick s) := by
  unfold tick
  split
  next => exact reaches_next h.applyReset hl
  next =>
    cases hphase : s.phase with
    | idle => exact reaches_tickIdle h hl
    | chk => exact reaches_tickChk h hl
    | res0 => exact reaches_tickRes0 h hl
    | res1 => exact reaches_tickRes1 h hl
    | stat => exact reaches_tickStat h hl hphase
    | burst => exact reaches_tickBurst h hl
    | dec => exact reaches_tickDec h hl hphase
    | srcrd => exact reaches_tickSrcrd h hl
    | scan => exact reaches_tickScan h hl
    | emit => exact reaches_tickEmit h hl

end

/-! ## The step -/

/-- Every step that has a next state, from every state. -/
theorem step_follows (hstep : step s = .next t) : ∃ l, Follows s l t ∧ OnlyBlockRequests s.par l := by
  have hnone := onlyBlockRequests_nil s.par
  cases hrst : s.rst with
  | true =>
    rw [step_of_rst hrst] at hstep
    exact reaches_next (Follows.start s).applyReset hnone t hstep
  | false =>
    by_cases hphase : s.phase = .idle
    · cases hc : s.cmds with
      | nil =>
        rw [step_of_idle_nil hrst hphase hc] at hstep
        exact reaches_next (Follows.start s) hnone t hstep
      | cons w rest =>
        rw [step_of_idle_cons hrst hphase hc] at hstep
        have hcmds : Follows s [] (s.setCmds rest) := (Follows.start s).setCmds (hc ▸ List.suffix_cons ..)
        have hlatch : Follows s [] ((s.setCmds rest).latchWord w) :=
          hcmds.work rfl (by simp [State.requestPort, hphase])
        obtain ⟨l, hf, hl⟩ := reaches_exec hlatch (decode w) t hstep
        exact ⟨l, hf, hl.onlyBlockRequests⟩
    · rw [step_of_busy hrst hphase] at hstep
      exact settle_induct (P := fun u => ∃ l, Follows s l u ∧ OnlyBlockRequests s.par l)
        (fun u v ⟨l, hf, hl⟩ ht => reaches_tick hf hl v ht) ⟨[], Follows.start s, hnone⟩ hstep

/-- The requests that have passed in a step. -/
theorem Follows.requestsIn_passed (h : Follows s l t) : requestsIn (passed s t) = l := by
  obtain ⟨items, htrace, hl⟩ := h.trace
  rw [passed_of_append htrace, hl]

/-- Settles O16: the frame of `step_follows`; the reset bit is consumed. -/
theorem stepOnlyConsumesInputs : Obligations.StepOnlyConsumesInputs := by
  unfold Obligations.StepOnlyConsumesInputs
  intro s t hstep
  obtain ⟨l, hf, -⟩ := step_follows hstep
  obtain ⟨items, htrace, -⟩ := hf.trace
  have hreset : t.rst = false := by
    cases hrst : s.rst with
    | true =>
      rw [step_of_rst hrst] at hstep
      cases hstep
      rfl
    | false => exact hf.rst hrst
  exact ⟨hf.par, ⟨items, htrace.symm⟩, hf.answers, hf.takes, hf.cmds, hreset⟩

/-- Settles O23: every rule for a state in the course of a step keeps it (`Follows.stands`). -/
theorem outstandingRequestIsTheLast : Obligations.OutstandingRequestIsTheLast := by
  unfold Obligations.OutstandingRequestIsTheLast
  intro s t hs hstep
  obtain ⟨l, hf, -⟩ := step_follows hstep
  exact hf.stands hs

/-- `ADDR_BW_RATE` is none of the five addresses the block reads (R39, U11). -/
theorem addrBwRate_not_mem {p : Params} (h : paramsWf p = true) :
    p.addrBwRate ∉ [p.addrIntSource, p.addrDataFormat, p.addrDataX0, p.addrFifoCtl, p.addrFifoStatus] := by
  simp only [paramsWf, Bool.and_eq_true, decide_eq_true_eq] at h
  obtain ⟨⟨haddresses, -⟩, -⟩ := h
  exact fun hmem => List.disjoint_of_nodup_append (l₁ := [_, _, _, _, _]) haddresses hmem (List.mem_singleton_self _)

/-- Settles O24: each of the five requests is a read, and at an address that is not `ADDR_BW_RATE`. -/
theorem blockNeverWritesNorReadsTheRate : Obligations.BlockNeverWritesNorReadsTheRate := by
  unfold Obligations.BlockNeverWritesNorReadsTheRate
  intro s t hstep q hq
  obtain ⟨l, hf, hl⟩ := step_follows hstep
  rw [hf.requestsIn_passed] at hq
  cases hl q hq with
  | fifoCtl => exact ⟨rfl, fun hwf heq => addrBwRate_not_mem hwf (heq ▸ by simp [reqFifoCtl])⟩
  | dataFormat => exact ⟨rfl, fun hwf heq => addrBwRate_not_mem hwf (heq ▸ by simp [reqDataFormat])⟩
  | fifoStatus => exact ⟨rfl, fun hwf heq => addrBwRate_not_mem hwf (heq ▸ by simp [reqFifoStatus])⟩
  | burst n hn => exact ⟨rfl, fun hwf heq => addrBwRate_not_mem hwf (heq ▸ by simp [reqBurst])⟩
  | intSource => exact ⟨rfl, fun hwf heq => addrBwRate_not_mem hwf (heq ▸ by simp [reqIntSource])⟩

/-- Settles O25: the burst length is that of 1 to 63 records. The invariant is not needed for it: no transition asks for a
burst of none (R115). -/
theorem onlyTheFiveRequests : Obligations.OnlyTheFiveRequests := by
  unfold Obligations.OnlyTheFiveRequests
  intro s t _ hstep q hq
  obtain ⟨l, hf, hl⟩ := step_follows hstep
  rw [hf.requestsIn_passed] at hq
  cases hl q hq with
  | fifoCtl => exact .inl rfl
  | dataFormat => exact .inr (.inl rfl)
  | fifoStatus => exact .inr (.inr (.inl rfl))
  | intSource => exact .inr (.inr (.inr (.inl rfl)))
  | burst n hn =>
    have hpos : n.toNat ≠ 0 := fun h => hn (BitVec.eq_of_toNat_eq h)
    have hlt := n.isLt
    refine .inr (.inr (.inr (.inr ⟨n.toNat, by omega, by omega, ?_⟩)))
    rw [← reqBurst_ofNat _ hlt, BitVec.ofNat_toNat, BitVec.setWidth_eq]

/-- Settles O26: each command keeps to its sequence, which in the default order is the one stated. -/
theorem requestsAreAPrefixOfTheRule : Obligations.RequestsAreAPrefixOfTheRule := by
  unfold Obligations.RequestsAreAPrefixOfTheRule
  intro s t horder
  have hrule {i : Instr} (hexec : exec i s = .next t) : RequestRule s.par i (requestsIn (passed s t)) := by
    obtain ⟨l, hf, hl⟩ := reaches_exec (Follows.start s) i t hexec
    rwa [hf.requestsIn_passed]
  have hresolver := requestsIn_resolverRequests_of_ctlFirst horder
  refine ⟨fun h hexec => ?_, fun h len hexec => ?_, fun cfg opb hexec => hrule hexec, fun h hexec => hrule hexec⟩
  · exact hresolver ▸ hrule hexec
  · obtain hl | ⟨n, -, hl⟩ := hrule hexec
    · exact .inl (by simpa [hresolver] using hl)
    · exact .inr ⟨n, by simpa [hresolver] using hl⟩

end Sys2Proof.Machine
end

section
/-! The command word of R81 as its fields, and with it the two round trips of the decoder and the encoder; then the
packed completion header (R89) and the packed record (R90), field by field. -/

namespace Sys2Proof.Machine

/-! ## A word and its fields -/

/-- The command word of R81 by its fields: the operation bits `o1`, `o0`, `OPCFG`, the handle, the reserved bits and
`OPERAND`. -/
def wordOf (o1 o0 : Bool) (opcfg : CfgWord) (h : Handle) (rsv : BitVec 6) (operand : BitVec 48) : Command :=
  (BitVec.ofBool o1 ++ BitVec.ofBool o0) ++ opcfg ++ encodeHandle h ++ rsv ++ operand

section

variable (o1 o0 : Bool) (opcfg : CfgWord) (h : Handle) (rsv : BitVec 6) (operand : BitVec 48)

theorem wordOf_bit63 : (wordOf o1 o0 opcfg h rsv operand).getLsbD 63 = o1 := by
  simp only [wordOf, BitVec.getLsbD_append]
  simp

theorem wordOf_bit62 : (wordOf o1 o0 opcfg h rsv operand).getLsbD 62 = o0 := by
  simp only [wordOf, BitVec.getLsbD_append]
  simp

theorem decodeHandle_wordOf : decodeHandle (wordOf o1 o0 opcfg h rsv operand) = h := by
  simp only [decodeHandle, wordOf, encodeHandle, BitVec.getLsbD_append]
  simp

theorem wordOf_operand : (wordOf o1 o0 opcfg h rsv operand).extractLsb' 0 48 = operand :=
  BitVec.extractLsb'_append_eq_right

theorem wordOf_len : (wordOf o1 o0 opcfg h rsv operand).extractLsb' 0 16 = operand.extractLsb' 0 16 :=
  BitVec.extractLsb'_append_eq_of_add_le (by decide)

theorem wordOf_opcfg : (wordOf o1 o0 opcfg h rsv operand).extractLsb' 56 6 = opcfg :=
  calc (wordOf o1 o0 opcfg h rsv operand).extractLsb' 56 6
      = (BitVec.ofBool o1 ++ BitVec.ofBool o0 ++ opcfg ++ encodeHandle h ++ rsv).extractLsb' 8 6 :=
        BitVec.extractLsb'_append_eq_of_le (by decide)
    _ = (BitVec.ofBool o1 ++ BitVec.ofBool o0 ++ opcfg ++ encodeHandle h).extractLsb' 2 6 :=
        BitVec.extractLsb'_append_eq_of_le (by decide)
    _ = (BitVec.ofBool o1 ++ BitVec.ofBool o0 ++ opcfg).extractLsb' 0 6 :=
        BitVec.extractLsb'_append_eq_of_le (by decide)
    _ = opcfg := BitVec.extractLsb'_append_eq_right

theorem wordOf_and (m1 m0 : Bool) (mc : CfgWord) (mh : Handle) (mr : BitVec 6) (mo : BitVec 48) :
    wordOf o1 o0 opcfg h rsv operand &&& wordOf m1 m0 mc mh mr mo =
      wordOf (o1 && m1) (o0 && m0) (opcfg &&& mc) ⟨h.hp && mh.hp, h.hi && mh.hi⟩ (rsv &&& mr) (operand &&& mo) := by
  refine BitVec.and_append.trans ?_
  simp only [BitVec.and_append, encodeHandle, BitVec.ofBool_and_ofBool, wordOf]

end

/-- A bit is a field of width 1. -/
theorem ofBool_getLsbD {w : Nat} (a : BitVec w) (i : Nat) : BitVec.ofBool (a.getLsbD i) = a.extractLsb' i 1 := by
  apply BitVec.eq_of_getLsbD_eq
  intro j hj
  obtain rfl : j = 0 := by omega
  simp

/-- Every word is made of its fields (R81). -/
theorem wordOf_fields (w : Command) :
    wordOf (w.getLsbD 63) (w.getLsbD 62) (w.extractLsb' 56 6) (decodeHandle w) (w.extractLsb' 48 6)
      (w.extractLsb' 0 48) = w := by
  simp only [wordOf, encodeHandle, decodeHandle, ofBool_getLsbD]
  iterate 6 rw [BitVec.extractLsb'_append_extractLsb'_eq_extractLsb' (by decide)]
  exact extract_whole w

/-! ## The two round trips -/

theorem encode_resolve (h : Handle) : encode (.resolve h) = wordOf false false 0 h 0 0 := rfl

theorem encode_read (h : Handle) (len : BitVec 16) : encode (.read h len) = wordOf false true 0 h 0 (0#32 ++ len) :=
  BitVec.append_assoc

theorem encode_decode (opcfg : CfgWord) (opb : BitVec 48) :
    encode (.decode opcfg opb) = wordOf true false opcfg ⟨false, false⟩ 0 opb := rfl

theorem encode_dispatch (h : Handle) : encode (.dispatch h) = wordOf true true 0 h 0 0 := rfl

section

variable (opcfg : CfgWord) (h : Handle) (rsv : BitVec 6) (operand : BitVec 48)

theorem decode_wordOf_resolve : decode (wordOf false false opcfg h rsv operand) = .resolve h := by
  rw [decode, wordOf_bit63, wordOf_bit62, decodeHandle_wordOf]

theorem decode_wordOf_read :
    decode (wordOf false true opcfg h rsv operand) = .read h (operand.extractLsb' 0 16) := by
  rw [decode, wordOf_bit63, wordOf_bit62, decodeHandle_wordOf, wordOf_len]

theorem decode_wordOf_decode : decode (wordOf true false opcfg h rsv operand) = .decode opcfg operand := by
  rw [decode, wordOf_bit63, wordOf_bit62, wordOf_opcfg, wordOf_operand]

theorem decode_wordOf_dispatch : decode (wordOf true true opcfg h rsv operand) = .dispatch h := by
  rw [decode, wordOf_bit63, wordOf_bit62, decodeHandle_wordOf]

end

/-- The decoder reads every operand back from the command's own word (R84). -/
theorem decode_encode (i : Instr) : decode (encode i) = i := by
  cases i with
  | resolve h => rw [encode_resolve, decode_wordOf_resolve]
  | read h len => rw [encode_read, decode_wordOf_read, BitVec.extractLsb'_append_eq_right]
  | decode opcfg opb => rw [encode_decode, decode_wordOf_decode]
  | dispatch h => rw [encode_dispatch, decode_wordOf_dispatch]

/-- No word is refused (R92). -/
theorem decodeTableWord_toNat (w : Command) : decodeTableWord 64 w.toNat = some (decode w) := by
  simp [decodeTableWord, decodeBits]

/-- Settles O2: the opcode table's reading of a 64-bit word is the decoder's. -/
theorem decodeOfEncodeIsTheCommand : Obligations.DecodeOfEncodeIsTheCommand := by
  unfold Obligations.DecodeOfEncodeIsTheCommand
  intro i
  exact ⟨decode_encode i, by rw [decodeTableWord_toNat, decode_encode]⟩

/-- The bits an operation reads, by field: one row of R84 for each operation. -/
theorem usedBits_wordOf (o1 o0 : Bool) (opcfg : CfgWord) (h : Handle) (rsv : BitVec 6) (operand : BitVec 48) :
    usedBits (wordOf o1 o0 opcfg h rsv operand) =
      match o1, o0 with
      | false, false => wordOf true true 0 ⟨true, true⟩ 0 0
      | false, true => wordOf true true 0 ⟨true, true⟩ 0 (0#32 ++ BitVec.allOnes 16)
      | true, false => wordOf true true (BitVec.allOnes 6) ⟨false, false⟩ 0 (BitVec.allOnes 48)
      | true, true => wordOf true true 0 ⟨true, true⟩ 0 0 := by
  rw [usedBits, wordOf_bit63, wordOf_bit62]
  cases o1 <;> cases o0 <;> decide

/-- The `LEN` bits of an operand (R81). -/
theorem operand_and_lenMask (operand : BitVec 48) :
    operand &&& (0#32 ++ BitVec.allOnes 16) = 0#32 ++ operand.extractLsb' 0 16 :=
  calc operand &&& (0#32 ++ BitVec.allOnes 16)
      = (operand.extractLsb' 16 32 ++ operand.extractLsb' 0 16) &&& (0#32 ++ BitVec.allOnes 16) := by
        rw [BitVec.extractLsb'_append_extractLsb']
    _ = 0#32 ++ operand.extractLsb' 0 16 := by
        rw [BitVec.and_append, BitVec.and_zero, BitVec.and_allOnes]

/-- Encoding what was decoded clears the bits the operation does not read (R84, R92). -/
theorem encode_decode_eq (w : Command) : encode (decode w) = w &&& usedBits w := by
  rw [← wordOf_fields w, usedBits_wordOf]
  generalize w.extractLsb' 56 6 = opcfg, decodeHandle w = h, w.extractLsb' 48 6 = rsv, w.extractLsb' 0 48 = operand
  cases w.getLsbD 63 <;> cases w.getLsbD 62
  case false.false =>
    rw [decode_wordOf_resolve, encode_resolve, wordOf_and]
    simp
  case false.true =>
    rw [decode_wordOf_read, encode_read, wordOf_and, operand_and_lenMask]
    simp
  case true.false =>
    rw [decode_wordOf_decode, encode_decode, wordOf_and, BitVec.and_allOnes, BitVec.and_allOnes]
    simp
  case true.true =>
    rw [decode_wordOf_dispatch, encode_dispatch, wordOf_and]
    simp

/-- Settles O3: field by field, in the word's row of R84. -/
theorem encodeOfDecodeClearsUnusedBits : Obligations.EncodeOfDecodeClearsUnusedBits := by
  unfold Obligations.EncodeOfDecodeClearsUnusedBits
  exact encode_decode_eq

/-! ## The words of the vectors -/

/-- Settles O1: thirteen closed words. -/
theorem decoderReadsHandWrittenWords : Obligations.DecoderReadsHandWrittenWords := by
  unfold Obligations.DecoderReadsHandWrittenWords
  decide

/-! ## Events, headers and records -/

/-- Settles O6: an event's bit is read at its code, so both halves are the row of the event in R43 and R191. -/
theorem eventCodesAreBitPositions : Obligations.EventCodesAreBitPositions := by
  unfold Obligations.EventCodesAreBitPositions
  intro b
  exact ⟨⟨rfl, rfl⟩, ⟨rfl, rfl⟩, ⟨rfl, rfl⟩, ⟨rfl, rfl⟩, ⟨rfl, rfl⟩, ⟨rfl, rfl⟩, ⟨rfl, rfl⟩, ⟨rfl, rfl⟩⟩

theorem header_status (c : Completion) (fill : BitVec 12) :
    (c.header fill).extractLsb' 13 3 = c.status.code := by
  refine (BitVec.extractLsb'_append_eq_of_le (by decide)).trans ?_
  refine (BitVec.extractLsb'_append_eq_of_le (by decide)).trans ?_
  exact BitVec.extractLsb'_append_eq_left

theorem header_bit12 (c : Completion) (fill : BitVec 12) : (c.header fill).getLsbD 12 = false := by
  simp only [Completion.header, BitVec.getLsbD_append]
  simp

theorem header_alen (c : Completion) (fill : BitVec 12) :
    (c.header fill).extractLsb' 6 6 = c.alen.getD (fill.extractLsb' 6 6) :=
  (BitVec.extractLsb'_append_eq_of_le (by decide)).trans BitVec.extractLsb'_append_eq_right

theorem header_cfg (c : Completion) (fill : BitVec 12) :
    (c.header fill).extractLsb' 0 6 = c.cfg.getD (fill.extractLsb' 0 6) := BitVec.extractLsb'_append_eq_right

/-- Settles O7: the header's four fields. -/
theorem completionHeaderLayout : Obligations.CompletionHeaderLayout := by
  unfold Obligations.CompletionHeaderLayout
  intro c fill
  rw [header_status, header_alen, header_cfg]
  refine ⟨?_, header_bit12 c fill, fun n h => ?_, fun h => ?_, fun g h => ?_, fun h => ?_⟩
  · cases c.status <;> rfl
  · simp [h]
  · simp [h]
  · simp [h]
  · simp [h]

/-- The three lanes of a stage register, packed below `above`, and `above` itself (R90). -/
theorem lanes_fields {v w : Nat} (above : BitVec v) (l : Lanes (BitVec w)) :
    (above ++ l.z ++ l.y ++ l.x).extractLsb' 0 w = l.x ∧ (above ++ l.z ++ l.y ++ l.x).extractLsb' w w = l.y ∧
    (above ++ l.z ++ l.y ++ l.x).extractLsb' (w + w) w = l.z ∧
    ∀ i n, (above ++ l.z ++ l.y ++ l.x).extractLsb' (w + w + w + i) n = above.extractLsb' i n := by
  refine ⟨BitVec.extractLsb'_append_eq_right, ?_, ?_, fun i n => ?_⟩
  · rw [extract_append_high _ _ _ _ le_rfl, Nat.sub_self]
    exact BitVec.extractLsb'_append_eq_right
  · rw [extract_append_high _ _ _ _ (by omega), extract_append_high _ _ _ _ (by omega)]
    simp only [Nat.add_sub_cancel, Nat.sub_self]
    exact BitVec.extractLsb'_append_eq_right
  · rw [extract_append_high _ _ _ _ (by omega), extract_append_high _ _ _ _ (by omega),
      extract_append_high _ _ _ _ (by omega)]
    congr 1
    omega

/-- Settles O8: the three stages, from the lowest up; nothing stands above `G`. -/
theorem recordLayout : Obligations.RecordLayout := by
  unfold Obligations.RecordLayout
  intro r
  obtain ⟨hrx, hry, hrz, hcor⟩ := lanes_fields (r.g.z ++ r.g.y ++ r.g.x ++ r.cor.z ++ r.cor.y ++ r.cor.x) r.raw
  obtain ⟨hcx, hcy, hcz, hg⟩ := lanes_fields (r.g.z ++ r.g.y ++ r.g.x) r.cor
  have hg (i n : Nat) : r.pack.extractLsb' (96 + i) n = (r.g.z ++ r.g.y ++ r.g.x).extractLsb' i n := by
    rw [show 96 + i = 16 + 16 + 16 + (48 + i) by omega]
    exact (hcor (48 + i) n).trans (hg i n)
  refine ⟨hrx, hry, hrz, (hcor 0 16).trans hcx, (hcor 16 16).trans hcy, (hcor 32 16).trans hcz, ?_, ?_, ?_⟩
  · exact (hg 0 32).trans BitVec.extractLsb'_append_eq_right
  · exact (hg 32 32).trans ((BitVec.extractLsb'_append_eq_of_le le_rfl).trans BitVec.extractLsb'_append_eq_right)
  · exact (hg 64 32).trans ((BitVec.extractLsb'_append_eq_of_le (by decide)).trans BitVec.extractLsb'_append_eq_left)

end Sys2Proof.Machine
end

section
/-! The assembler lines of R93: each operand name and the bits it stands for are in bijection, under parameters whose
encodings are (U11), and so are the lines and the well-formed commands. -/

namespace Sys2Proof.Machine

/-! ## Two-bit encodings -/

/-- Distinct values, as many as there are, are all values. -/
theorem mem_of_nodup_of_length {α : Type} {l all : List α} (hall : ∀ x, x ∈ all) (hl : l.Nodup)
    (hlen : all.length ≤ l.length) (x : α) : x ∈ l :=
  ((hl.subperm fun y _ => hall y).perm_of_length_le hlen).mem_iff.mpr (hall x)

section

variable {α : Type} [DecidableEq α] {t : Code4 α}

/-- Under a bijective encoding the value of a two-bit pattern is encoded as that pattern (U11). -/
theorem codeOf_at (h : [t.c0, t.c1, t.c2, t.c3].Nodup) (b : BitVec 2) : codeOf t (t.at b) = b := by
  simp only [List.nodup_cons, List.mem_cons, List.not_mem_nil, not_or] at h
  obtain ⟨⟨h01, h02, h03, -⟩, ⟨h12, h13, -⟩, ⟨h23, -⟩, -⟩ := h
  obtain rfl | rfl | rfl | rfl : b = 0 ∨ b = 1 ∨ b = 2 ∨ b = 3 := by decide +revert
  · simp [Code4.at, codeOf]
  · simp [Code4.at, codeOf, h01]
  · simp [Code4.at, codeOf, h02, h12]
  · simp [Code4.at, codeOf, h03, h13, h23]

/-- Under a bijective encoding of four values the pattern of a value stands for it (U11). -/
theorem at_codeOf {all : List α} (hall : ∀ x, x ∈ all) (hlen : all.length ≤ 4)
    (hnodup : [t.c0, t.c1, t.c2, t.c3].Nodup) (x : α) : t.at (codeOf t x) = x := by
  have h := mem_of_nodup_of_length hall hnodup hlen x
  simp only [List.mem_cons, List.not_mem_nil, or_false] at h
  unfold codeOf
  split_ifs with h0 h1 h2
  · exact h0
  · exact h1
  · exact h2
  · obtain rfl | rfl | rfl | rfl := h
    · exact absurd rfl h0
    · exact absurd rfl h1
    · exact absurd rfl h2
    · rfl

end

/-- The encodings of parameters the spec allows (U11). -/
theorem encodings_nodup {p : Params} (h : paramsWf p = true) :
    [p.encMode.c0, p.encMode.c1, p.encMode.c2, p.encMode.c3].Nodup ∧
    [p.encRange.c0, p.encRange.c1, p.encRange.c2, p.encRange.c3].Nodup := by
  simp only [paramsWf, Bool.and_eq_true, decide_eq_true_eq] at h
  obtain ⟨⟨-, hmode⟩, hrange⟩ := h
  exact ⟨hmode, hrange⟩

theorem mode_mem (m : Mode) : m ∈ [Mode.bypass, .fifo, .stream, .trigger] := by cases m <;> decide

theorem range_mem (r : Range) : r ∈ [Range.g2, .g4, .g8, .g16] := by cases r <;> decide

/-! ## The operands of a line -/

/-- The name of a packed configuration. -/
def cfgName (p : Params) (c : CfgWord) : CfgName := ⟨cfgMode p c, cfgFull p c, cfgJust p c, cfgRange p c⟩

theorem word_cfgName {p : Params} (h : paramsWf p = true) (c : CfgWord) : (cfgName p c).word p = c := by
  obtain ⟨hmode, hrange⟩ := encodings_nodup h
  have hfull : ((cfgName p c).full == p.frTrue) = c.getLsbD 3 := by simp [cfgName, cfgFull]
  have hjust : (decide ((cfgName p c).just = .left) == p.justLeft) = c.getLsbD 2 := by
    unfold cfgName cfgJust
    cases c.getLsbD 2 <;> cases p.justLeft <;> rfl
  have hm : codeOf p.encMode (cfgName p c).mode = c.extractLsb' 4 2 := codeOf_at hmode _
  have hr : codeOf p.encRange (cfgName p c).range = c.extractLsb' 0 2 := codeOf_at hrange _
  rw [CfgName.word, hm, hfull, hjust, hr, ofBool_getLsbD, ofBool_getLsbD]
  iterate 3 rw [BitVec.extractLsb'_append_extractLsb'_eq_extractLsb' (by decide)]
  exact extract_whole c

theorem cfgName_word {p : Params} (h : paramsWf p = true) (n : CfgName) : cfgName p (n.word p) = n := by
  obtain ⟨hmode, hrange⟩ := encodings_nodup h
  have hm : cfgMode p (n.word p) = n.mode := by
    have he : (n.word p).extractLsb' 4 2 = codeOf p.encMode n.mode := by
      refine (BitVec.extractLsb'_append_eq_of_le (by decide)).trans ?_
      refine (BitVec.extractLsb'_append_eq_of_le (by decide)).trans ?_
      exact BitVec.extractLsb'_append_eq_left
    rw [cfgMode, he, at_codeOf mode_mem le_rfl hmode]
  have hr : cfgRange p (n.word p) = n.range := by
    have he : (n.word p).extractLsb' 0 2 = codeOf p.encRange n.range := BitVec.extractLsb'_append_eq_right
    rw [cfgRange, he, at_codeOf range_mem le_rfl hrange]
  have hf : cfgFull p (n.word p) = n.full := by
    simp only [cfgFull, CfgName.word, BitVec.getLsbD_append]
    simp
  have hj : cfgJust p (n.word p) = n.just := by
    simp only [cfgJust, CfgName.word, BitVec.getLsbD_append]
    simp
    cases n.just <;> cases p.justLeft <;> decide
  rw [cfgName, hm, hf, hj, hr]

/-- The name of a handle, where it has one (R82, R93). -/
def handleName (h : Handle) : HandleName := if h.hp then if h.hi then .ok else .uninit else .null

theorem handle_handleName {h : Handle} (hwf : h.wellFormed = true) : (handleName h).handle = h := by
  obtain ⟨hp, hi⟩ := h
  cases hp with
  | true => cases hi <;> rfl
  | false =>
    have hnot : hi = false := by simpa [Handle.wellFormed] using hwf
    rw [hnot]
    rfl

theorem handleName_handle (n : HandleName) : handleName n.handle = n := by cases n <;> rfl

theorem handle_wellFormed (n : HandleName) : n.handle.wellFormed = true := by cases n <;> rfl

/-- The six bytes of an operand (R85). -/
def sixOf (opb : BitVec 48) : Six :=
  ⟨opbByte opb 0, opbByte opb 1, opbByte opb 2, opbByte opb 3, opbByte opb 4, opbByte opb 5⟩

theorem sixOf_opbOf (b : Six) : sixOf (opbOf b) = b := opbOf_bytes b

theorem opbOf_sixOf (opb : BitVec 48) : opbOf (sixOf opb) = opb := by
  simp only [opbOf, sixOf, opbByte]
  iterate 5 rw [BitVec.extractLsb'_append_extractLsb'_eq_extractLsb' (by decide)]
  exact extract_whole opb

/-! ## The lines -/

/-- The line of a command, where it has one. -/
def lineOf (p : Params) : Instr → AsmLine
  | .resolve h => .resolve (handleName h)
  | .read h len => .read (handleName h) len
  | .decode opcfg opb => .decode (cfgName p opcfg) (sixOf opb)
  | .dispatch h => .dispatch (handleName h)

theorem instr_wellFormed (p : Params) (l : AsmLine) : (l.instr p).wellFormed = true := by
  cases l with
  | resolve h => exact handle_wellFormed h
  | read h len => exact handle_wellFormed h
  | decode cfg b => rfl
  | dispatch h => exact handle_wellFormed h

theorem instr_lineOf {p : Params} (hp : paramsWf p = true) {i : Instr} (hi : i.wellFormed = true) :
    (lineOf p i).instr p = i := by
  cases i with
  | resolve h => exact congrArg Instr.resolve (handle_handleName hi)
  | read h len => exact congrArg (Instr.read · len) (handle_handleName hi)
  | decode opcfg opb => exact congrArg₂ Instr.decode (word_cfgName hp opcfg) (opbOf_sixOf opb)
  | dispatch h => exact congrArg Instr.dispatch (handle_handleName hi)

theorem lineOf_instr {p : Params} (hp : paramsWf p = true) (l : AsmLine) : lineOf p (l.instr p) = l := by
  cases l with
  | resolve h => exact congrArg AsmLine.resolve (handleName_handle h)
  | read h len => exact congrArg (AsmLine.read · len) (handleName_handle h)
  | decode cfg b => exact congrArg₂ AsmLine.decode (cfgName_word hp cfg) (sixOf_opbOf b)
  | dispatch h => exact congrArg AsmLine.dispatch (handleName_handle h)

/-- Settles O5: `lineOf` is the inverse of `AsmLine.instr` on well-formed commands. -/
theorem assemblerLinesAreTheWellFormedCommands : Obligations.AssemblerLinesAreTheWellFormedCommands := by
  unfold Obligations.AssemblerLinesAreTheWellFormedCommands
  intro p hp
  refine ⟨instr_wellFormed p, fun i hi => ⟨lineOf p i, instr_lineOf hp hi, fun l hl => ?_⟩⟩
  rw [← hl, lineOf_instr hp]

end Sys2Proof.Machine
end

section
/-! An idle block: the command it runs (R80) and the latch it writes (R24, R81). -/

namespace Sys2Proof.Machine

/-- Settles O9: a word placed by `withFetchWord` stands first at the port of an idle block, whole. -/
theorem stepRunsTheDecodedCommand : Obligations.StepRunsTheDecodedCommand := by
  unfold Obligations.StepRunsTheDecodedCommand
  refine ⟨fun s w rest i hrst hphase hcmds hi => hi ▸ step_of_idle_cons hrst hphase hcmds, fun s w => ?_⟩
  have hword : BitVec.ofNat 64 (w.toNat % 2 ^ 64) = w := by
    rw [Nat.mod_eq_of_lt w.isLt, BitVec.ofNat_toNat, BitVec.setWidth_eq]
  exact step_of_idle_cons (s := s.withFetchWord 64 w.toNat) rfl rfl (congrArg (· :: s.cmds) hword)

/-- Settles O10: after `latchWord` acceptance writes the phase alone. -/
theorem acceptanceLatchesFields : Obligations.AcceptanceLatchesFields := by
  unfold Obligations.AcceptanceLatchesFields
  intro s w rest hrst hphase hcmds
  have htick : tick s = .next (accept (decode w) ((s.setCmds rest).latchWord w)) := by
    simp [tick, tickIdle, hrst, hphase, hcmds]
  rw [htick, accept_latchWord]
  unfold State.latchWord commandOp
  cases w.getLsbD 63 <;> cases w.getLsbD 62 <;> rfl

end Sys2Proof.Machine
end

section
/-! What an operation in progress does not look at: the command port (R80, R193) and the latch registers it does not
read (R84, R92). `Alongside` compares a run with the run of a state that differs in these alone (`State.overlay`), and
says of both whether the completion has been given (R87). Each shared operation of the model has one rule, and the
meanings and the transitions of R121 and R169 are assembled from the rules. -/

namespace Sys2Proof.Machine

/-! ## The operand registers and the command port -/

/-- The command latch (R24). -/
def Regs.latch (r : Regs) : Op × Bool × Bool × BitVec 16 × BitVec 48 × BitVec 6 :=
  (r.op, r.hp, r.hi, r.len, r.opb, r.opcfg)

/-- `s` with the operand registers of the latch taken from `l`, and the words `ws` at the command port. -/
def State.overlay (l : Regs) (ws : List Command) (s : State) : State :=
  { s with cmds := ws, regs := { s.regs with hp := l.hp, hi := l.hi, len := l.len, opb := l.opb, opcfg := l.opcfg } }

section

variable (l : Regs) (ws : List Command) (s : State)

@[simp] theorem State.overlay_phase : (s.overlay l ws).phase = s.phase := rfl
@[simp] theorem State.overlay_par : (s.overlay l ws).par = s.par := rfl
@[simp] theorem State.overlay_answers : (s.overlay l ws).answers = s.answers := rfl
@[simp] theorem State.overlay_takes : (s.overlay l ws).takes = s.takes := rfl
@[simp] theorem State.overlay_rst : (s.overlay l ws).rst = s.rst := rfl
@[simp] theorem State.overlay_op : (s.overlay l ws).regs.op = s.regs.op := rfl
@[simp] theorem State.overlay_cfg : (s.overlay l ws).regs.cfg = s.regs.cfg := rfl
@[simp] theorem State.overlay_alen : (s.overlay l ws).regs.alen = s.regs.alen := rfl
@[simp] theorem State.overlay_idx : (s.overlay l ws).regs.idx = s.regs.idx := rfl
@[simp] theorem State.overlay_pend : (s.overlay l ws).regs.pend = s.regs.pend := rfl

end

/-- Two latches hold the same operation, and the same in the registers that it reads (R84). -/
structure SameOperands (r l : Regs) : Prop where
  op : l.op = r.op
  handle : r.op ≠ .decode → l.hp = r.hp ∧ l.hi = r.hi
  len : r.op = .read → l.len = r.len
  operand : r.op = .decode → l.opcfg = r.opcfg ∧ l.opb = r.opb

theorem SameOperands.refl (r : Regs) : SameOperands r r :=
  ⟨rfl, fun _ => ⟨rfl, rfl⟩, fun _ => rfl, fun _ => ⟨rfl, rfl⟩⟩

variable {b s t : State} {l : Regs} {ws : List Command}

/-! ## States in the course of an operation -/

/-- In the course of an operation from `b`: the latch and the command port are as in `b`, and no completion has passed
since. -/
structure Running (b s : State) : Prop where
  busy : s.phase ≠ .idle
  latch : s.regs.latch = b.regs.latch
  cmds : s.cmds = b.cmds
  rst : s.rst = b.rst
  trace : ∃ items, s.trace = b.trace ++ items ∧ completionsIn items = []

/-- After the operation from `b`: the block is idle, and one completion has passed since (R80, R87). -/
structure Answered (b s : State) : Prop where
  idle : s.phase = .idle
  cmds : s.cmds = b.cmds
  trace : ∃ items, s.trace = b.trace ++ items ∧ (completionsIn items).length = 1

theorem Running.start (h : s.phase ≠ .idle) : Running s s := ⟨h, rfl, rfl, rfl, [], by simp⟩

theorem Running.op (h : Running b s) : s.regs.op = b.regs.op := congrArg Prod.fst h.latch

/-- Operands that are those of `b` are those of every state in the course of the operation. -/
theorem Running.sameOperands (h : Running b s) (hl : SameOperands b.regs l) : SameOperands s.regs l := by
  have hlatch := h.latch
  simp only [Regs.latch, Prod.mk.injEq] at hlatch
  obtain ⟨hop, hhp, hhi, hlen, hopb, hopcfg⟩ := hlatch
  constructor <;> rw [hop]
  · exact hl.op
  · rw [hhp, hhi]
    exact hl.handle
  · rw [hlen]
    exact hl.len
  · rw [hopb, hopcfg]
    exact hl.operand

/-- Registers outside the latch are written, or answers consumed. -/
theorem Running.write (h : Running b s)
    (ht : t = { s with phase := t.phase, regs := t.regs, answers := t.answers })
    (hlatch : t.regs.latch = s.regs.latch) (hbusy : t.phase ≠ .idle) : Running b t := by
  rw [ht] at hlatch hbusy ⊢
  exact ⟨hbusy, hlatch.trans h.latch, h.cmds, h.rst, h.trace⟩

/-- A request or an event passes. -/
theorem Running.pass (h : Running b s) (x : PortItem) (hx : completionsIn [x] = [])
    (ht : t = { s with phase := t.phase, regs := t.regs, takes := t.takes, trace := s.trace ++ [x] })
    (hlatch : t.regs.latch = s.regs.latch) (hbusy : t.phase ≠ .idle) : Running b t := by
  obtain ⟨items, htrace, hitems⟩ := h.trace
  rw [ht] at hlatch hbusy ⊢
  exact ⟨hbusy, hlatch.trans h.latch, h.cmds, h.rst, items ++ [x], by simp [htrace], by simp [hitems, hx]⟩

/-- The completion passes (R87, R186). -/
theorem Running.finish (h : Running b s) (v : Status) (n : Option (BitVec 6)) (c : Option CfgWord)
    (rs : List Record) : Answered b (finish v n c rs s) := by
  obtain ⟨items, htrace, hitems⟩ := h.trace
  rw [finish_eq_ended]
  exact ⟨rfl, h.cmds, items ++ [.completion ⟨v, n, c, rs⟩], by simp [htrace], by simp [hitems]⟩

section

variable (h : Running b s)
include h

theorem Running.ask (p : Phase) (r : Request) (hp : p ≠ .idle) : Running b (ask p r s) := h.pass _ rfl rfl rfl hp

theorem Running.setCfg (c : CfgWord) : Running b (s.setCfg c) := h.write rfl rfl h.busy

theorem Running.decodeInto (i : Nat) : Running b (decodeInto i s) := by
  rw [decodeInto_eq]
  exact h.write rfl rfl h.busy

theorem Running.decodeNext : Running b (decodeNext s) := by
  have hinto := h.decodeInto s.regs.idx.toNat
  rw [decodeNext_eq]
  exact hinto.write rfl rfl hinto.busy

end

theorem Running.decodeRecords (n : Nat) (h : Running b s) : Running b (decodeRecords n s) := by
  induction n generalizing s with
  | zero => exact h
  | succ n ih => exact ih h.decodeNext

/-! ## What the overlay passes through -/

theorem decodeRecords_overlay (n : Nat) (s : State) :
    decodeRecords n (s.overlay l ws) = (decodeRecords n s).overlay l ws := by
  induction n generalizing s with
  | zero => rfl
  | succ n ih => exact ih (decodeNext s)

theorem gotFifoStatus_overlay (bs : List Byte) (hlen : l.len = s.regs.len) :
    gotFifoStatus bs (s.overlay l ws) = (gotFifoStatus bs s).overlay l ws := by
  simp [gotFifoStatus, State.overlay, State.setCnt, State.setAlen, hlen]

theorem checkFailure_overlay (hl : SameOperands s.regs l) (hop : s.regs.op ≠ .decode) :
    checkFailure (s.overlay l ws).regs = checkFailure s.regs := by
  obtain ⟨hhp, hhi⟩ := hl.handle hop
  have hlen : s.regs.op = .read ∧ l.len = 0 ↔ s.regs.op = .read ∧ s.regs.len = 0 :=
    and_congr_right fun hread => by rw [hl.len hread]
  simp only [checkFailure, State.overlay, hhp, hhi, hlen]

/-! ## Two outcomes side by side -/

/-- The outcome of a run from `b`, and that of the same run under the overlay: the overlay stays in the course of the
operation, and after it only the command port differs. -/
inductive Alongside (b : State) (l : Regs) (ws : List Command) : Out → Out → Prop
  | running {s : State} (h : Running b s) : Alongside b l ws (.next s) (.next (s.overlay l ws))
  | answered {s : State} (h : Answered b s) : Alongside b l ws (.next s) (.next (s.setCmds ws))
  | fault (r : Fault) : Alongside b l ws (.fault r) (.fault r)
  | refused (r : Refusal) : Alongside b l ws (.refused r) (.refused r)

/-- No operand register outlives the completion (R45). -/
theorem alongside_finish (h : Running b s) (v : Status) (n : Option (BitVec 6)) (c : Option CfgWord)
    (rs : List Record) : Alongside b l ws (.next (finish v n c rs s)) (.next (finish v n c rs (s.overlay l ws))) :=
  .answered (h.finish v n c rs)

theorem alongside_completeRead (h : Running b s) :
    Alongside b l ws (.next (completeRead s)) (.next (completeRead (s.overlay l ws))) := alongside_finish h _ _ _ _

/-- The checks find the same (R184). -/
theorem alongside_checked {k : State → Out} (h : Running b s) (hl : SameOperands b.regs l)
    (hop : s.regs.op ≠ .decode) (hk : Alongside b l ws (k s) (k (s.overlay l ws))) :
    Alongside b l ws (checked s k) (checked (s.overlay l ws) k) := by
  unfold checked
  rw [checkFailure_overlay (h.sameOperands hl) hop]
  cases checkFailure s.regs with
  | none => exact hk
  | some e => exact alongside_finish h _ _ _ _

/-- The same answer is met (R66, R67). -/
theorem alongside_onAnswer {n : Nat} {k : List Byte → State → Out} (h : Running b s)
    (hk : ∀ bs as, Running b (s.setAnswers as) →
      Alongside b l ws (k bs (s.setAnswers as)) (k bs ((s.setAnswers as).overlay l ws))) :
    Alongside b l ws (onAnswer n s k) (onAnswer n (s.overlay l ws) k) := by
  have hrest (as : List Answer) : Running b (s.setAnswers as) := h.write rfl rfl h.busy
  obtain ⟨ha, hs⟩ | ⟨as, ha, hs⟩ | ⟨bs, as, ha, hn, hs⟩ | ⟨bs, as, ha, hn, hs⟩ := onAnswer_cases n s k
  · rw [hs, onAnswer_nil (s := s.overlay l ws) ha]
    exact .running h
  · rw [hs, onAnswer_fail (s := s.overlay l ws) ha]
    exact alongside_finish (hrest as) _ _ _ _
  · rw [hs, onAnswer_ok (s := s.overlay l ws) ha hn]
    exact hk bs as (hrest as)
  · have hs' : onAnswer n (s.overlay l ws) k = .refused (.answerLength n bs.length) := by simp [onAnswer, ha, hn]
    rw [hs, hs']
    exact .refused _

/-! ## The pieces of the four operations -/

/-- The resolver sequence, in either order (R102, D7). -/
theorem alongside_resolveSeq {k : State → Out} (h : Running b s)
    (hk : ∀ t, Running b t → Alongside b l ws (k t) (k (t.overlay l ws))) :
    Alongside b l ws (resolveSeq s k) (resolveSeq (s.overlay l ws) k) := by
  unfold resolveSeq
  rw [State.overlay_par]
  cases s.par.order with
  | ctlFirst =>
    refine alongside_onAnswer (s := askFifoCtl s) (h.ask .res0 _ (by decide)) fun c as h => ?_
    refine alongside_onAnswer (s := askDataFormat (gotFifoCtl c ((askFifoCtl s).setAnswers as)))
      ((h.setCfg _).ask .res1 _ (by decide)) fun f as h => ?_
    exact hk (gotDataFormat f _) (h.setCfg _)
  | fmtFirst =>
    refine alongside_onAnswer (s := askDataFormat s) (h.ask .res1 _ (by decide)) fun f as h => ?_
    refine alongside_onAnswer (s := askFifoCtl (gotDataFormat f ((askDataFormat s).setAnswers as)))
      ((h.setCfg _).ask .res0 _ (by decide)) fun c as h => ?_
    exact hk (gotFifoCtl c _) (h.setCfg _)

/-- The burst and its decode (R116, R117). -/
theorem alongside_readBurst (h : Running b s) : Alongside b l ws (readBurst s) (readBurst (s.overlay l ws)) := by
  refine alongside_onAnswer (s := askBurst s) (h.ask .burst _ (by decide)) fun bs as h => ?_
  have hburst : Running b (gotBurst bs ((askBurst s).setAnswers as)) := h.write rfl rfl (by simp)
  have hread := alongside_completeRead (l := l) (ws := ws) (hburst.decodeRecords s.regs.alen.toNat)
  rw [← decodeRecords_overlay] at hread
  exact hread

/-- After the resolver sequence `READ` reads `LEN` (R112 to R115). -/
theorem alongside_readSamples (h : Running b s) (hlen : l.len = s.regs.len) :
    Alongside b l ws (readSamples s) (readSamples (s.overlay l ws)) := by
  unfold readSamples
  rw [State.overlay_par, State.overlay_cfg]
  split
  next => exact alongside_readBurst (s := s.setAlen 1) (h.write rfl rfl h.busy)
  next =>
    refine alongside_onAnswer (s := askFifoStatus s) (h.ask .stat _ (by decide)) fun bs as h => ?_
    have hcount : Running b (gotFifoStatus bs ((askFifoStatus s).setAnswers as)) := h.write rfl rfl h.busy
    have hlen : l.len = ((askFifoStatus s).setAnswers as).regs.len := hlen
    simp only [gotFifoStatus_overlay bs hlen, State.overlay_alen]
    split
    next => exact alongside_completeRead hcount
    next => exact alongside_readBurst hcount

/-- `DECODE` reads its operand and nothing else of the latch (R131). -/
theorem alongside_decodeOperand (h : Running b s) (hopcfg : l.opcfg = s.regs.opcfg) (hopb : l.opb = s.regs.opb) :
    Alongside b l ws (.next (decodeOperand s)) (.next (decodeOperand (s.overlay l ws))) := by
  have hsame : decodeOperand (s.overlay l ws) = (decodeOperand s).setCmds ws := by
    rw [decodeOperand_eq_ended, decodeOperand_eq_ended]
    simp only [State.overlay, hopcfg, hopb]
    rfl
  rw [hsame, decodeOperand_eq_ended, ← finish_eq_ended]
  exact .answered (h.finish _ _ _ _)

/-- The event loop (R161). -/
theorem alongside_emitPending (n : Nat) (h : Running b s) :
    Alongside b l ws (.next (emitPending n s)) (.next (emitPending n (s.overlay l ws))) := by
  induction n generalizing s with
  | zero => exact .running h
  | succ n ih =>
    cases hk : highestBit s.regs.pend with
    | none =>
      rw [emitPending_none hk, emitPending_none (s := s.overlay l ws) hk]
      exact alongside_finish h _ _ _ _
    | some k =>
      have hpresent : Running b (present k s) := h.write rfl rfl (by simp)
      by_cases htakes : s.takes = 0
      · rw [emitPending_hold hk htakes, emitPending_hold (s := s.overlay l ws) hk htakes]
        exact .running hpresent
      · rw [emitPending_take hk htakes, emitPending_take (s := s.overlay l ws) hk htakes]
        exact ih (hpresent.pass (.event k) rfl rfl rfl (by simp))

/-! ## The operations -/

/-- The meaning of a command runs from its acceptance. -/
theorem alongside_exec {s s' : State} (i : Instr) (haccept : accept i s' = (accept i s).overlay l ws)
    (hl : SameOperands (accept i s).regs l) : Alongside (accept i s) l ws (exec i s) (exec i s') := by
  have hstart : (accept i s).phase ≠ .idle → Running (accept i s) (accept i s) := .start
  cases i with
  | resolve h =>
    simp only [accept, exec, execResolve] at haccept hstart hl ⊢
    rw [haccept]
    refine alongside_checked (hstart nofun) hl nofun (alongside_resolveSeq (hstart nofun) fun t h => ?_)
    exact alongside_finish h _ _ _ _
  | read h len =>
    simp only [accept, exec, execRead] at haccept hstart hl ⊢
    rw [haccept]
    refine alongside_checked (hstart nofun) hl nofun (alongside_resolveSeq (hstart nofun) fun t h => ?_)
    exact alongside_readSamples h ((h.sameOperands hl).len h.op)
  | decode opcfg opb =>
    simp only [accept, exec, execDecode] at haccept hstart hl ⊢
    rw [haccept]
    obtain ⟨hopcfg, hopb⟩ := hl.operand rfl
    exact alongside_decodeOperand (hstart nofun) hopcfg hopb
  | dispatch h =>
    simp only [accept, exec, execDispatch] at haccept hstart hl ⊢
    rw [haccept]
    refine alongside_checked (hstart nofun) hl nofun ?_
    refine alongside_onAnswer (s := askIntSource (acceptDispatch h s)) ((hstart nofun).ask .srcrd _ (by decide))
      fun bs as h => ?_
    exact alongside_emitPending 9 (s := gotIntSource bs _) (h.write rfl rfl (by simp))

/-! ## The transitions -/

section

variable (h : Running b s)
include h

theorem alongside_firstRequest : Alongside b l ws (.next (firstRequest s)) (.next (firstRequest (s.overlay l ws))) := by
  unfold firstRequest
  rw [State.overlay_par]
  cases s.par.order with
  | ctlFirst => exact .running (h.ask .res0 _ (by decide))
  | fmtFirst => exact .running (h.ask .res1 _ (by decide))

theorem alongside_resolved (p : Phase) : Alongside b l ws (resolved p s) (resolved p (s.overlay l ws)) := by
  unfold resolved
  rw [State.overlay_op, State.overlay_par, State.overlay_cfg]
  cases s.regs.op with
  | resolve => exact alongside_finish h _ _ _ _
  | read =>
    have hone : Running b (s.setAlen 1) := h.write rfl rfl h.busy
    simp only
    split
    next => exact .running (hone.ask .burst _ (by decide))
    next => exact .running (h.ask .stat _ (by decide))
  | decode => exact .fault _
  | dispatch => exact .fault _

theorem alongside_tickRes0 : Alongside b l ws (tickRes0 s) (tickRes0 (s.overlay l ws)) := by
  refine alongside_onAnswer h fun bs as h => ?_
  have hgot : Running b (gotFifoCtl bs (s.setAnswers as)) := h.setCfg _
  rw [State.overlay_par]
  cases (s.setAnswers as).par.order with
  | ctlFirst => exact .running (hgot.ask .res1 _ (by decide))
  | fmtFirst => exact alongside_resolved hgot _

theorem alongside_tickRes1 : Alongside b l ws (tickRes1 s) (tickRes1 (s.overlay l ws)) := by
  refine alongside_onAnswer h fun bs as h => ?_
  have hgot : Running b (gotDataFormat bs (s.setAnswers as)) := h.setCfg _
  rw [State.overlay_par]
  cases (s.setAnswers as).par.order with
  | ctlFirst => exact alongside_resolved hgot _
  | fmtFirst => exact .running (hgot.ask .res0 _ (by decide))

theorem alongside_tickBurst : Alongside b l ws (tickBurst s) (tickBurst (s.overlay l ws)) := by
  unfold tickBurst
  rw [State.overlay_op]
  cases s.regs.op with
  | read => exact alongside_onAnswer h fun bs as h => .running (h.write rfl rfl (by simp))
  | resolve => exact .fault _
  | decode => exact .fault _
  | dispatch => exact .fault _

theorem alongside_tickSrcrd : Alongside b l ws (tickSrcrd s) (tickSrcrd (s.overlay l ws)) := by
  unfold tickSrcrd
  rw [State.overlay_op]
  cases s.regs.op with
  | dispatch => exact alongside_onAnswer h fun bs as h => .running (h.write rfl rfl (by simp))
  | resolve => exact .fault _
  | read => exact .fault _
  | decode => exact .fault _

theorem alongside_tickScan : Alongside b l ws (tickScan s) (tickScan (s.overlay l ws)) := by
  unfold tickScan
  rw [State.overlay_op, State.overlay_pend]
  cases s.regs.op with
  | dispatch =>
    cases highestBit s.regs.pend with
    | none => exact alongside_finish h _ _ _ _
    | some k => exact .running (h.write rfl rfl (by simp))
  | resolve => exact .fault _
  | read => exact .fault _
  | decode => exact .fault _

theorem alongside_tickEmit : Alongside b l ws (tickEmit s) (tickEmit (s.overlay l ws)) := by
  unfold tickEmit
  rw [State.overlay_op, State.overlay_takes]
  cases s.regs.op with
  | dispatch =>
    simp only
    split
    next => exact .running h
    next => exact .running (h.pass (.event s.regs.k) rfl rfl rfl (by simp))
  | resolve => exact .fault _
  | read => exact .fault _
  | decode => exact .fault _

variable (hl : SameOperands b.regs l)
include hl

theorem alongside_tickChk : Alongside b l ws (tickChk s) (tickChk (s.overlay l ws)) := by
  unfold tickChk
  rw [State.overlay_op]
  cases hop : s.regs.op with
  | decode => exact .fault _
  | dispatch => exact alongside_checked h hl (by simp [hop]) (.running (h.ask .srcrd _ (by decide)))
  | resolve => exact alongside_checked h hl (by simp [hop]) (alongside_firstRequest h)
  | read => exact alongside_checked h hl (by simp [hop]) (alongside_firstRequest h)

theorem alongside_tickStat : Alongside b l ws (tickStat s) (tickStat (s.overlay l ws)) := by
  unfold tickStat
  rw [State.overlay_op]
  cases hop : s.regs.op with
  | read =>
    refine alongside_onAnswer h fun bs as h => ?_
    have hcount : Running b (gotFifoStatus bs (s.setAnswers as)) := h.write rfl rfl h.busy
    simp only [gotFifoStatus_overlay bs ((h.sameOperands hl).len hop), State.overlay_alen]
    split
    next => exact alongside_completeRead hcount
    next => exact .running (hcount.ask .burst _ (by decide))
  | resolve => exact .fault _
  | decode => exact .fault _
  | dispatch => exact .fault _

theorem alongside_tickDec : Alongside b l ws (tickDec s) (tickDec (s.overlay l ws)) := by
  unfold tickDec
  rw [State.overlay_op, State.overlay_idx, State.overlay_alen]
  cases hop : s.regs.op with
  | decode =>
    obtain ⟨hopcfg, hopb⟩ := (h.sameOperands hl).operand hop
    exact alongside_decodeOperand h hopcfg hopb
  | read =>
    simp only
    split_ifs
    · exact .running h.decodeNext
    · exact alongside_completeRead (h.decodeInto s.regs.idx.toNat)
    · exact .fault _
  | resolve => exact .fault _
  | dispatch => exact .fault _

/-- One transition of a busy block. -/
theorem alongside_tick (hrst : b.rst = false) : Alongside b l ws (tick s) (tick (s.overlay l ws)) := by
  have hs : s.rst = false := h.rst.trans hrst
  unfold tick
  rw [State.overlay_rst, State.overlay_phase, hs]
  cases hphase : s.phase with
  | idle => exact absurd hphase h.busy
  | chk => exact alongside_tickChk h hl
  | res0 => exact alongside_tickRes0 h
  | res1 => exact alongside_tickRes1 h
  | stat => exact alongside_tickStat h hl
  | burst => exact alongside_tickBurst h
  | dec => exact alongside_tickDec h hl
  | srcrd => exact alongside_tickSrcrd h
  | scan => exact alongside_tickScan h
  | emit => exact alongside_tickEmit h

end

/-! ## The step of a busy block -/

theorem waiting_of_idle (h : s.phase = .idle) : s.waiting = true := by simp [State.waiting, h]

/-- Both runs settle after as many transitions. -/
theorem alongside_settle (n : Nat) (h : Running b s) (hl : SameOperands b.regs l) (hrst : b.rst = false) :
    Alongside b l ws (settle n s) (settle n (s.overlay l ws)) := by
  induction n generalizing s with
  | zero => exact .running h
  | succ n ih =>
    cases hw : s.waiting with
    | true =>
      rw [settle_of_waiting hw, settle_of_waiting (s := s.overlay l ws) hw]
      exact .running h
    | false =>
      have htick : Alongside b l ws (tick s) (tick (s.overlay l ws)) := alongside_tick h hl hrst
      rw [settle_succ hw, settle_succ (s := s.overlay l ws) hw]
      generalize tick s = o, tick (s.overlay l ws) = o' at htick ⊢
      cases htick with
      | running h => exact ih h
      | @answered t h =>
        have hidle := waiting_of_idle h.idle
        simp only
        rw [settle_of_waiting hidle, settle_of_waiting (s := t.setCmds ws) hidle]
        exact .answered h
      | fault r => exact .fault r
      | refused r => exact .refused r

theorem alongside_step (hrst : s.rst = false) (hphase : s.phase ≠ .idle) (hl : SameOperands s.regs l) :
    Alongside s l ws (step s) (step (s.overlay l ws)) := by
  rw [step_of_busy hrst hphase, step_of_busy (s := s.overlay l ws) hrst hphase]
  exact alongside_settle settleBound (.start hphase) hl hrst

end Sys2Proof.Machine
end

section
/-! The statements read off `Alongside`: the command port (R193), the one completion (R80), and the bits an operation
does not read (R92). -/

namespace Sys2Proof.Machine

variable {b s t : State} {l : Regs} {ws : List Command} {o o' : Out}

/-! ## The command port and the completion -/

/-- The overlay of a state's own latch changes the command port alone. -/
theorem State.overlay_of_latch_eq (h : s.regs.latch = l.latch) : s.overlay l ws = s.setCmds ws := by
  simp only [Regs.latch, Prod.mk.injEq] at h
  obtain ⟨-, hhp, hhi, hlen, hopb, hopcfg⟩ := h
  simp only [State.overlay, ← hhp, ← hhi, ← hlen, ← hopb, ← hopcfg]
  rfl

/-- Settles O11: the overlay with the block's own latch, in the course of the operation and after it. -/
theorem busyBlockIgnoresTheCommandPort : Obligations.BusyBlockIgnoresTheCommandPort := by
  unfold Obligations.BusyBlockIgnoresTheCommandPort
  intro s ws hrst hphase
  have hstep : Alongside s s.regs ws (step s) (step { s with cmds := ws }) :=
    alongside_step hrst hphase (.refl _)
  generalize step s = o, step { s with cmds := ws } = o' at hstep ⊢
  cases hstep with
  | running h => exact congrArg _ (State.overlay_of_latch_eq h.latch)
  | answered h => rfl
  | fault r => rfl
  | refused r => rfl

/-- What passes tells whether the block is idle again. -/
theorem Alongside.completion (h : Alongside b l ws (.next t) o') :
    (t.phase = .idle ∧ (completionsIn (passed b t)).length = 1) ∨
    (t.phase ≠ .idle ∧ completionsIn (passed b t) = []) := by
  cases h with
  | running h =>
    obtain ⟨items, htrace, hitems⟩ := h.trace
    exact .inr ⟨h.busy, by rw [passed_of_append htrace, hitems]⟩
  | answered h =>
    obtain ⟨items, htrace, hitems⟩ := h.trace
    exact .inl ⟨h.idle, by rw [passed_of_append htrace, hitems]⟩

theorem accept_trace (i : Instr) (s : State) : (accept i s).trace = s.trace := by cases i <;> rfl

/-- Settles O14: one run, alongside itself. -/
theorem oneCompletionForEachCommand : Obligations.OneCompletionForEachCommand := by
  unfold Obligations.OneCompletionForEachCommand
  refine ⟨fun i s t hexec => ?_, fun s t hrst hphase hstep => ?_⟩
  · have hrun : Alongside (accept i s) (accept i s).regs (accept i s).cmds (exec i s) (exec i s) :=
      alongside_exec i rfl (.refl _)
    rw [hexec] at hrun
    have hcompletion := hrun.completion
    rwa [passed, accept_trace] at hcompletion
  · have hrun : Alongside s s.regs s.cmds (step s) (step s) := alongside_step hrst hphase (.refl _)
    rw [hstep] at hrun
    exact hrun.completion

/-! ## The latch registers an operation does not read -/

/-- Blanking leaves what the operation reads (R84). -/
theorem sameOperands_forgetUnread (s : State) : SameOperands s.regs s.forgetUnread.regs := by
  unfold State.forgetUnread
  cases hop : s.regs.op <;> constructor <;> simp [hop]

/-- An overlay covers every register that blanking changes. -/
theorem forgetUnread_then_overlay (s : State) : s.forgetUnread.overlay l ws = s.overlay l ws := by
  unfold State.forgetUnread
  cases s.regs.op <;> rfl

/-- An overlay with the same operands changes only registers that blanking covers. -/
theorem overlay_then_forgetUnread (hl : SameOperands s.regs l) :
    (s.overlay l s.cmds).forgetUnread = s.forgetUnread := by
  unfold State.forgetUnread
  rw [State.overlay_op]
  cases hop : s.regs.op with
  | resolve =>
    obtain ⟨hhp, hhi⟩ := hl.handle (by simp [hop])
    simp [State.overlay, hhp, hhi]
  | read =>
    obtain ⟨hhp, hhi⟩ := hl.handle (by simp [hop])
    simp [State.overlay, hhp, hhi, hl.len hop]
  | decode =>
    obtain ⟨hopcfg, hopb⟩ := hl.operand hop
    simp [State.overlay, hopcfg, hopb]
  | dispatch =>
    obtain ⟨hhp, hhi⟩ := hl.handle (by simp [hop])
    simp [State.overlay, hhp, hhi]

/-- Two states that agree once blanked hold the same operands. -/
theorem sameOperands_of_forgetUnread_eq {s s' : State} (h : s.forgetUnread = s'.forgetUnread) :
    SameOperands s.regs s'.regs := by
  have hs := sameOperands_forgetUnread s
  have hs' := sameOperands_forgetUnread s'
  rw [← h] at hs'
  have hop : s.regs.op = s'.regs.op := hs.op.symm.trans hs'.op
  refine ⟨hop.symm, fun hne => ?_, fun hread => ?_, fun hdecode => ?_⟩
  · obtain ⟨hhp, hhi⟩ := hs.handle hne
    obtain ⟨hhp', hhi'⟩ := hs'.handle (hop ▸ hne)
    exact ⟨hhp'.symm.trans hhp, hhi'.symm.trans hhi⟩
  · exact (hs'.len (hop ▸ hread)).symm.trans (hs.len hread)
  · obtain ⟨hopcfg, hopb⟩ := hs.operand hdecode
    obtain ⟨hopcfg', hopb'⟩ := hs'.operand (hop ▸ hdecode)
    exact ⟨hopcfg'.symm.trans hopcfg, hopb'.symm.trans hopb⟩

/-- Two states that agree once blanked differ by an overlay. -/
theorem eq_overlay_of_forgetUnread_eq {s s' : State} (h : s.forgetUnread = s'.forgetUnread) :
    s' = s.overlay s'.regs s.cmds :=
  calc s' = s'.overlay s'.regs s'.cmds := rfl
    _ = s'.forgetUnread.overlay s'.regs s'.cmds := (forgetUnread_then_overlay s').symm
    _ = s.forgetUnread.overlay s'.regs s'.cmds := by rw [h]
    _ = s.overlay s'.regs s'.cmds := forgetUnread_then_overlay s
    _ = s.overlay s'.regs s.cmds := congrArg (s.overlay s'.regs) (congrArg State.cmds h).symm

/-- Outcomes under an overlay with the same operands agree once blanked. -/
theorem Alongside.forgetUnread_eq (h : Alongside b l b.cmds o o') (hl : SameOperands b.regs l) :
    onNext State.forgetUnread o = onNext State.forgetUnread o' := by
  cases h with
  | running h =>
    rw [← h.cmds]
    exact congrArg Host.Outcome.next (overlay_then_forgetUnread (h.sameOperands hl)).symm
  | answered h =>
    rw [← h.cmds]
    rfl
  | fault r => rfl
  | refused r => rfl

/-- Two states that agree once blanked go on agreeing: a reset and an accepted word leave nothing of the latch, and an
operation in progress does not read what differs. -/
theorem step_forgetUnread_eq {s s' : State} (h : s.forgetUnread = s'.forgetUnread) :
    onNext State.forgetUnread (step s) = onNext State.forgetUnread (step s') := by
  have hs' := eq_overlay_of_forgetUnread_eq h
  have hrst' : s'.rst = s.rst := (congrArg State.rst h).symm
  have hphase' : s'.phase = s.phase := (congrArg State.phase h).symm
  have hcmds' : s'.cmds = s.cmds := (congrArg State.cmds h).symm
  cases hrst : s.rst with
  | true =>
    rw [step_of_rst hrst, step_of_rst (hrst'.trans hrst), hs']
    rfl
  | false =>
    by_cases hphase : s.phase = .idle
    · cases hcmds : s.cmds with
      | nil =>
        rw [step_of_idle_nil hrst hphase hcmds,
          step_of_idle_nil (hrst'.trans hrst) (hphase'.trans hphase) (hcmds'.trans hcmds)]
        exact congrArg Host.Outcome.next h
      | cons w rest =>
        rw [step_of_idle_cons hrst hphase hcmds,
          step_of_idle_cons (hrst'.trans hrst) (hphase'.trans hphase) (hcmds'.trans hcmds), hs']
        rfl
    · have hl := sameOperands_of_forgetUnread_eq h
      rw [hs']
      exact (alongside_step hrst hphase hl).forgetUnread_eq hl

/-! ## Words that differ in unread bits -/

/-- Words that agree in the bits that are read decode alike. -/
theorem decode_eq_of_usedBits {w w' : Command} (h : w &&& usedBits w = w' &&& usedBits w') : decode w = decode w' :=
  calc decode w = decode (encode (decode w)) := (decode_encode _).symm
    _ = decode (encode (decode w')) := by rw [encode_decode_eq, encode_decode_eq, h]
    _ = decode w' := decode_encode _

/-- Acceptance writes every register that the operation reads (R84). -/
theorem sameOperands_accept (i : Instr) (s s' : State) : SameOperands (accept i s).regs (accept i s').regs := by
  cases i with
  | resolve h => exact ⟨rfl, fun _ => ⟨rfl, rfl⟩, nofun, nofun⟩
  | read h len => exact ⟨rfl, fun _ => ⟨rfl, rfl⟩, fun _ => rfl, nofun⟩
  | decode opcfg opb => exact ⟨rfl, fun hne => absurd rfl hne, nofun, fun _ => ⟨rfl, rfl⟩⟩
  | dispatch h => exact ⟨rfl, fun _ => ⟨rfl, rfl⟩, nofun, nofun⟩

/-- A command's outcome does not depend on the word latched before it, but for the registers it does not read. -/
theorem exec_latchWord_forgetUnread_eq (i : Instr) (w w' : Command) (s : State) :
    onNext State.forgetUnread (exec i (s.latchWord w)) = onNext State.forgetUnread (exec i (s.latchWord w')) := by
  have hl := sameOperands_accept i (s.latchWord w) (s.latchWord w')
  have haccept : accept i (s.latchWord w') = (accept i (s.latchWord w)).overlay (accept i (s.latchWord w')).regs
      (accept i (s.latchWord w)).cmds := by cases i <;> rfl
  exact (alongside_exec i haccept hl).forgetUnread_eq hl

/-- Settles O4: the two words decode to one command, which runs from two latches. -/
theorem unusedBitsAreIgnored : Obligations.UnusedBitsAreIgnored := by
  unfold Obligations.UnusedBitsAreIgnored
  refine ⟨decodeTableWord_toNat, fun s w w' rest hrst hphase hbits => ?_, fun s s' h => step_forgetUnread_eq h⟩
  rw [step_of_idle_cons (s := { s with cmds := w :: rest }) hrst hphase rfl,
    step_of_idle_cons (s := { s with cmds := w' :: rest }) hrst hphase rfl, ← decode_eq_of_usedBits hbits]
  exact exec_latchWord_forgetUnread_eq (decode w) w w' (s.setCmds rest)

end Sys2Proof.Machine
end

section
/-! `RESOLVE` from acceptance to its completion (R102, R103): the checks that fail, a failed read, and `CFG`. -/

namespace Sys2Proof.Machine

/-- A check that finds something ends the operation with it, before any request (R184, R186). -/
theorem checked_of_checkFailure_some {s : State} {e : ErrorKind} (h : checkFailure s.regs = some e)
    (k : State → Out) : checked s k = .next (ended s [errorItem e] s.answers s.takes) := by
  simp [checked, h, raise_eq_ended]

section
variable {s : State} {c f : Byte} {as : List Answer}

/-- A failed check ends `RESOLVE`, whatever the transport would answer (R184). -/
theorem execResolve_of_checkFailure {h : Handle} {e : ErrorKind}
    (hcheck : checkFailure (acceptResolve h s).regs = some e) :
    execResolve h s = .next (ended s [errorItem e] s.answers s.takes) :=
  checked_of_checkFailure_some hcheck _

/-- A failed first read ends `RESOLVE`, and the second is not issued (R102). -/
theorem execResolve_of_first_fails (ha : s.answers = .fail :: as) :
    execResolve ⟨true, true⟩ s =
      .next (ended s ((resolverRequests s.par).take 1 ++ [errorItem .transportError]) as s.takes) :=
  (execResolve_of_good s).trans (resolveSeq_of_first_fails _ ha)

/-- A failed second read ends `RESOLVE` (R102). -/
theorem execResolve_of_second_fails (ha : s.answers = (resolverAnswers s.par c f).take 1 ++ .fail :: as) :
    execResolve ⟨true, true⟩ s =
      .next (ended s (resolverRequests s.par ++ [errorItem .transportError]) as s.takes) :=
  (execResolve_of_good s).trans (resolveSeq_of_second_fails _ ha)

/-- With both reads answered `RESOLVE` delivers `CFG`, in either order of the reads (R102, R103, D7). -/
theorem execResolve_of_answers (ha : s.answers = resolverAnswers s.par c f ++ as) :
    execResolve ⟨true, true⟩ s =
      .next (ended s (resolverRequests s.par ++ [.completion ⟨.ok, none, some (cfgOf c f), []⟩]) as s.takes) := by
  have h : PassedSince s (resolverRequests s.par) (afterResolver (acceptResolve ⟨true, true⟩ s) c f as) :=
    ⟨rfl, rfl, rfl, rfl, rfl, rfl⟩
  rw [execResolve_of_good, resolveSeq_ok (acceptResolve _ s) c f as _ ha, ← h.ended_eq]
  rfl

end

/-- Settles O30: the two checks, the two failed reads and the success, the last three taken at the default order. -/
theorem resolveDeliversCfg : Obligations.ResolveDeliversCfg := by
  unfold Obligations.ResolveDeliversCfg
  intro s c f as hi horder
  have hreq : resolverRequests s.par = [.request (reqFifoCtl s.par), .request (reqDataFormat s.par)] := by
    rw [resolverRequests, horder]
  have hans : resolverAnswers s.par c f = [.ok [c], .ok [f]] := by rw [resolverAnswers, horder]
  have hfirst := execResolve_of_first_fails (s := s) (as := as)
  have hsecond := execResolve_of_second_fails (s := s) (c := c) (f := f) (as := as)
  have hboth := execResolve_of_answers (s := s) (c := c) (f := f) (as := as)
  rw [hreq] at hfirst hsecond hboth
  rw [hans] at hsecond hboth
  exact ⟨execResolve_of_checkFailure rfl, execResolve_of_checkFailure rfl, hfirst, hsecond, hboth⟩

end Sys2Proof.Machine
end

section
/-! Each operation as its transitions (R121, R169 against R103, R111, R131, R161): the rows of the tables as equations,
and `SettlesTo`, which says that the transitions from an outcome end in another. Each piece of the pseudocode has one
rule, and the four operations are assembled from the rules. -/

namespace Sys2Proof.Machine

variable {s t : State} {o o' : Out} {n m : Nat}

/-! ## The rows of the tables, by phase -/

theorem tick_of_rst (h : s.rst = true) : tick s = .next s.applyReset := by simp [tick, h]

section
variable (h : s.rst = false)
include h

theorem tick_of_idle (hp : s.phase = .idle) : tick s = tickIdle s := by simp [tick, h, hp]
theorem tick_of_chk (hp : s.phase = .chk) : tick s = tickChk s := by simp [tick, h, hp]
theorem tick_of_res0 (hp : s.phase = .res0) : tick s = tickRes0 s := by simp [tick, h, hp]
theorem tick_of_res1 (hp : s.phase = .res1) : tick s = tickRes1 s := by simp [tick, h, hp]
theorem tick_of_stat (hp : s.phase = .stat) : tick s = tickStat s := by simp [tick, h, hp]
theorem tick_of_burst (hp : s.phase = .burst) : tick s = tickBurst s := by simp [tick, h, hp]
theorem tick_of_dec (hp : s.phase = .dec) : tick s = tickDec s := by simp [tick, h, hp]
theorem tick_of_srcrd (hp : s.phase = .srcrd) : tick s = tickSrcrd s := by simp [tick, h, hp]
theorem tick_of_scan (hp : s.phase = .scan) : tick s = tickScan s := by simp [tick, h, hp]
theorem tick_of_emit (hp : s.phase = .emit) : tick s = tickEmit s := by simp [tick, h, hp]

end

/-! ## Running the transitions on -/

/-- The transitions from an outcome, at most `n` of them. -/
def resume (n : Nat) : Out → Out
  | .next t => settle n t
  | .fault r => .fault r
  | .refused r => .refused r

/-- A block that does not wait makes its transition and is run on. -/
theorem settle_eq_resume (h : s.waiting = false) : settle (n + 1) s = resume n (tick s) := by
  rw [settle_succ h]
  cases tick s <;> rfl

/-- Run on, the outcome `o` is `o'` after at most `n` transitions. -/
def SettlesTo (n : Nat) (o o' : Out) : Prop := ∀ m, n ≤ m → resume m o = o'

theorem SettlesTo.mono (h : SettlesTo n o o') (hnm : n ≤ m) : SettlesTo m o o' := fun k hk => h k (hnm.trans hk)

theorem settlesTo_of_waiting (h : s.waiting = true) : SettlesTo n (.next s) (.next s) := fun _ _ => settle_of_waiting h

/-- The operation has ended. -/
theorem settlesTo_finish (v : Status) (a : Option (BitVec 6)) (c : Option CfgWord) (rs : List Record) (s : State) :
    SettlesTo n (.next (finish v a c rs s)) (.next (finish v a c rs s)) := settlesTo_of_waiting rfl

/-- One transition. -/
theorem SettlesTo.of_tick (hw : s.waiting = false) (h : SettlesTo n (tick s) o) : SettlesTo (n + 1) (.next s) o := by
  intro m hm
  obtain ⟨k, rfl⟩ : ∃ k, m = k + 1 := ⟨m - 1, by omega⟩
  exact (settle_eq_resume hw).trans (h k (by omega))

/-- The checks end both the operation and its transitions, or neither (R184). -/
theorem settlesTo_checked {k k' : State → Out} (h : SettlesTo n (k s) (k' s)) :
    SettlesTo n (checked s k) (checked s k') := by
  unfold checked
  cases checkFailure s.regs with
  | none => exact h
  | some e => exact settlesTo_finish _ _ _ _ _

/-- An `ok` answer of another length than asked has no meaning (R223; assumption 9). -/
theorem onAnswer_of_length_ne {asked : Nat} {k : List Byte → State → Out} {bs : List Byte} {as : List Answer}
    (ha : s.answers = .ok bs :: as) (hl : bs.length ≠ asked) :
    onAnswer asked s k = .refused (.answerLength asked bs.length) := by simp [onAnswer, ha, hl]

/-- The transition that meets an answer: the pseudocode goes on at once where the sequencer goes on with the next row
(R61, R66, R67). -/
theorem settlesTo_onAnswer {asked : Nat} {k k' : List Byte → State → Out} (hw : s.waiting = s.answers.isEmpty)
    (htick : tick s = onAnswer asked s k)
    (hk : ∀ bs as, SettlesTo n (k bs (s.setAnswers as)) (k' bs (s.setAnswers as))) :
    SettlesTo (n + 1) (.next s) (onAnswer asked s k') := by
  cases ha : s.answers with
  | nil =>
    rw [onAnswer_nil ha]
    exact settlesTo_of_waiting (by simp [hw, ha])
  | cons a as =>
    refine .of_tick (by simp [hw, ha]) ?_
    rw [htick]
    cases a with
    | fail =>
      rw [onAnswer_fail ha, onAnswer_fail ha]
      exact settlesTo_finish _ _ _ _ _
    | ok bs =>
      by_cases hl : bs.length = asked
      · rw [onAnswer_ok ha hl, onAnswer_ok ha hl]
        exact hk bs as
      · rw [onAnswer_of_length_ne ha hl, onAnswer_of_length_ne ha hl]
        exact fun _ _ => rfl

/-! ## The pieces of the operations -/

/-- The resolver sequence, in either order, up to the rows that leave it (R102, D7). -/
theorem settlesTo_resolveSeq {k : State → Out} (hrst : s.rst = false)
    (hk : ∀ p u, u.rst = false → u.regs.op = s.regs.op → SettlesTo n (resolved p u) (k u)) :
    SettlesTo (n + 2) (.next (firstRequest s)) (resolveSeq s k) := by
  unfold firstRequest resolveSeq
  cases ho : s.par.order with
  | ctlFirst =>
    refine settlesTo_onAnswer (s := askFifoCtl s) rfl (tick_of_res0 hrst rfl) fun bs as => ?_
    rw [State.setAnswers_par, askFifoCtl_par, ho]
    refine settlesTo_onAnswer (s := askDataFormat _) rfl (tick_of_res1 hrst rfl) fun bs' as' => ?_
    simp only [State.setAnswers_par, askDataFormat_par, gotFifoCtl_par, askFifoCtl_par, ho]
    exact hk _ _ hrst rfl
  | fmtFirst =>
    refine settlesTo_onAnswer (s := askDataFormat s) rfl (tick_of_res1 hrst rfl) fun bs as => ?_
    rw [State.setAnswers_par, askDataFormat_par, ho]
    refine settlesTo_onAnswer (s := askFifoCtl _) rfl (tick_of_res0 hrst rfl) fun bs' as' => ?_
    simp only [State.setAnswers_par, askDataFormat_par, gotDataFormat_par, askFifoCtl_par, ho]
    exact hk _ _ hrst rfl

/-- `IDX` does not wrap below `ALEN` (R28). -/
theorem idx_add_one_toNat {idx alen : BitVec 6} (h : idx.toNat < alen.toNat) : (idx + 1).toNat = idx.toNat + 1 := by
  bv_omega

@[simp] theorem decodeNext_op (s : State) : (decodeNext s).regs.op = s.regs.op := by
  rw [decodeNext_regs, decodeInto_regs]
@[simp] theorem decodeNext_idx (s : State) : (decodeNext s).regs.idx = s.regs.idx + 1 := by rw [decodeNext_regs]
@[simp] theorem decodeNext_alen (s : State) : (decodeNext s).regs.alen = s.regs.alen := by
  rw [decodeNext_regs, decodeInto_regs]

/-- The decode loop, one transition for each record (R117, R121). -/
theorem settlesTo_decodeRecords (hrst : s.rst = false) (hphase : s.phase = .dec) (hop : s.regs.op = .read)
    (hidx : s.regs.idx.toNat + (n + 1) = s.regs.alen.toNat) :
    SettlesTo (n + 1) (.next s) (.next (completeRead (decodeRecords (n + 1) s))) := by
  induction n generalizing s with
  | zero =>
    refine .of_tick (by simp [State.waiting, hphase]) ?_
    rw [tick_of_dec hrst hphase, tickDec, hop]
    simp only
    rw [if_neg (by omega), if_pos (by omega)]
    exact settlesTo_finish _ _ _ _ _
  | succ n ih =>
    have hnext := idx_add_one_toNat (idx := s.regs.idx) (alen := s.regs.alen) (by omega)
    refine .of_tick (by simp [State.waiting, hphase]) ?_
    rw [tick_of_dec hrst hphase, tickDec, hop]
    simp only
    rw [if_pos (by omega)]
    refine ih (by simpa using hrst) (by simpa using hphase) (by simpa using hop) ?_
    rw [decodeNext_idx, decodeNext_alen, hnext]
    omega

/-- The burst (R116), with something to fetch. -/
theorem settlesTo_readBurst (hrst : s.rst = false) (hop : s.regs.op = .read) (hn : s.regs.alen ≠ 0) :
    SettlesTo 64 (.next (askBurst s)) (readBurst s) := by
  have hrow : tick (askBurst s) =
      onAnswer (burstLen s.regs.alen).toNat (askBurst s) fun bs s => .next (gotBurst bs s) := by
    rw [tick_of_burst (s := askBurst s) hrst rfl, tickBurst, askBurst_regs, hop]
  obtain ⟨n, hlen⟩ : ∃ n, s.regs.alen.toNat = n + 1 :=
    Nat.exists_eq_succ_of_ne_zero fun h => hn (BitVec.eq_of_toNat_eq h)
  have hlt := s.regs.alen.isLt
  refine settlesTo_onAnswer (n := 63) rfl hrow fun bs as => ?_
  rw [State.setAnswers_regs, askBurst_regs, hlen]
  refine SettlesTo.mono (n := n + 1) ?_ (by omega)
  exact settlesTo_decodeRecords hrst rfl hop (by simp [hlen])

/-- `READ` after the resolver sequence (R111 to R117). -/
theorem settlesTo_readSamples (p : Phase) (hrst : s.rst = false) (hop : s.regs.op = .read) :
    SettlesTo 65 (resolved p s) (readSamples s) := by
  rw [resolved, hop, readSamples]
  simp only
  split
  next => exact (settlesTo_readBurst (s := s.setAlen 1) hrst hop (by simp)).mono (by decide)
  next =>
    have hrow : tick (askFifoStatus s) = _ := tick_of_stat hrst rfl
    rw [tickStat, askFifoStatus_regs, hop] at hrow
    refine settlesTo_onAnswer rfl hrow fun bs as => ?_
    simp only
    split
    next => exact settlesTo_finish _ _ _ _ _
    next hn => exact settlesTo_readBurst (s := gotFifoStatus bs _) hrst hop hn

/-- The event loop, a scan and an event for each pass (R161, R169). -/
theorem settlesTo_emitPending (hrst : s.rst = false) (hphase : s.phase = .scan) (hop : s.regs.op = .dispatch)
    (hn : (eventsOf s.regs.pend).length < n) : SettlesTo (2 * n) (.next s) (.next (emitPending n s)) := by
  induction n generalizing s with
  | zero => omega
  | succ n ih =>
    refine .of_tick (n := 2 * n + 1) (by simp [State.waiting, hphase]) ?_
    rw [tick_of_scan hrst hphase, tickScan, hop]
    cases hk : highestBit s.regs.pend with
    | none =>
      rw [emitPending_none hk]
      exact settlesTo_finish _ _ _ _ _
    | some k =>
      simp only
      by_cases htakes : s.takes = 0
      · rw [emitPending_hold hk htakes]
        exact settlesTo_of_waiting (by simp [State.waiting, htakes])
      · rw [emitPending_take hk htakes]
        refine .of_tick (by simp [State.waiting, htakes]) ?_
        rw [tick_of_emit (s := present k s) hrst rfl, tickEmit, present_regs, hop]
        simp only
        rw [if_neg (by simpa using htakes)]
        rw [eventsOf_of_highestBit_some _ _ hk, List.length_cons] at hn
        exact ih (s := taken (present k s)) hrst rfl hop (by simpa using hn)

/-! ## The operations -/

/-- An accepted command whose operation begins with the checks (R184). -/
theorem settlesTo_of_chk {k k' : State → Out} (hrst : s.rst = false) (hphase : s.phase = .chk)
    (hrow : tickChk s = checked s k) (h : SettlesTo n (k s) (k' s)) :
    SettlesTo (n + 1) (.next s) (checked s k') := by
  refine .of_tick (by simp [State.waiting, hphase]) ?_
  rw [tick_of_chk hrst hphase, hrow]
  exact settlesTo_checked h

section
variable (hrst : s.rst = false)
include hrst

theorem settlesTo_execResolve (h : Handle) : SettlesTo 3 (.next (acceptResolve h s)) (execResolve h s) := by
  refine settlesTo_of_chk hrst rfl (k := fun s => .next (firstRequest s)) rfl ?_
  refine settlesTo_resolveSeq (n := 0) hrst fun p u _ hop => ?_
  rw [resolved, hop]
  exact settlesTo_finish _ _ _ _ _

theorem settlesTo_execRead (h : Handle) (len : BitVec 16) :
    SettlesTo 68 (.next (acceptRead h len s)) (execRead h len s) := by
  refine settlesTo_of_chk hrst rfl (k := fun s => .next (firstRequest s)) rfl ?_
  exact settlesTo_resolveSeq hrst fun p u hu hop => settlesTo_readSamples p hu hop

theorem settlesTo_execDecode (opcfg : CfgWord) (opb : BitVec 48) :
    SettlesTo 1 (.next (acceptDecode opcfg opb s)) (execDecode opcfg opb s) := by
  refine .of_tick rfl ?_
  rw [tick_of_dec (s := acceptDecode opcfg opb s) hrst rfl]
  exact settlesTo_finish _ _ _ _ _

theorem settlesTo_execDispatch (h : Handle) : SettlesTo 20 (.next (acceptDispatch h s)) (execDispatch h s) := by
  refine settlesTo_of_chk hrst rfl (k := fun s => .next (askIntSource s)) rfl ?_
  have hrow : tick (askIntSource (acceptDispatch h s)) =
      onAnswer 1 (askIntSource (acceptDispatch h s)) fun bs s => .next (gotIntSource bs s) := tick_of_srcrd hrst rfl
  refine settlesTo_onAnswer rfl hrow fun bs as => ?_
  exact settlesTo_emitPending (n := 9) hrst rfl rfl (eventsOf_length_lt _)

end

/-- Settles O13: no operation makes more than 68 transitions, and the bound is 80. -/
theorem operationIsItsTransitions : Obligations.OperationIsItsTransitions := by
  unfold Obligations.OperationIsItsTransitions
  intro i s hrst
  cases i with
  | resolve h => exact settlesTo_execResolve hrst h settleBound (by decide)
  | read h len => exact settlesTo_execRead hrst h len settleBound (by decide)
  | decode opcfg opb => exact settlesTo_execDecode hrst opcfg opb settleBound (by decide)
  | dispatch h => exact settlesTo_execDispatch hrst h settleBound (by decide)

/-- Everything a step can do: the reset, or transitions, from where the block is or from the acceptance of the command
at its port. -/
theorem step_cases (s : State) :
    step s = .next s.applyReset ∨ step s = settle settleBound s ∨
      ∃ w rest, step s = settle settleBound (accept (decode w) ((s.setCmds rest).latchWord w)) := by
  cases hrst : s.rst with
  | true => exact .inl (step_of_rst hrst)
  | false =>
    by_cases hphase : s.phase = .idle
    · cases hcmds : s.cmds with
      | nil =>
        have hstay := settle_of_waiting (n := settleBound) (waiting_of_idle hphase)
        exact .inr (.inl ((step_of_idle_nil hrst hphase hcmds).trans hstay.symm))
      | cons w rest =>
        have hrun := operationIsItsTransitions (decode w) ((s.setCmds rest).latchWord w) hrst
        exact .inr (.inr ⟨w, rest, (step_of_idle_cons hrst hphase hcmds).trans hrun.symm⟩)
    · exact .inr (.inl (step_of_busy hrst hphase))

end Sys2Proof.Machine
end

section
/-! The register invariant (R121, R169, R184): what every row of the tables does from a state that meets it, and from
there the step. One pass over the rows shows both that the invariant is kept and that no row is missing. -/

namespace Sys2Proof.Machine

variable {s t : State} {n : Nat}

/-- A transition that does not leave the states of the invariant: it goes to one of them or is refused, and does not
fault. -/
def Safe : Out → Prop
  | .next t => SeqInv t
  | .fault _ => False
  | .refused _ => True

/-! ## The shared operations -/

theorem safe_of_idle (h : s.phase = .idle) : Safe (.next s) := seqInv_of_idle h

theorem safe_finish (v : Status) (a : Option (BitVec 6)) (c : Option CfgWord) (rs : List Record) (s : State) :
    Safe (.next (finish v a c rs s)) := safe_of_idle rfl

theorem safe_checked {k : State → Out} (hk : checkFailure s.regs = none → Safe (k s)) : Safe (checked s k) := by
  obtain ⟨e, -, hs⟩ | ⟨hnone, hs⟩ := checked_cases s k
  · rw [hs]
    exact safe_finish _ _ _ _ _
  · rw [hs]
    exact hk hnone

theorem safe_onAnswer {k : List Byte → State → Out} (h : SeqInv s)
    (hk : ∀ bs as, Safe (k bs (s.setAnswers as))) : Safe (onAnswer n s k) := by
  obtain ⟨-, hs⟩ | ⟨as, -, hs⟩ | ⟨bs, as, -, -, hs⟩ | ⟨bs, as, -, -, hs⟩ := onAnswer_cases n s k
  · rw [hs]
    exact h
  · rw [hs]
    exact safe_finish _ _ _ _ _
  · rw [hs]
    exact hk bs as
  · rw [hs]
    trivial

/-! ## Acceptance and the checks -/

/-- An accepted command waits for its checks, or is a `DECODE` in `DEC` (R80, R169). -/
theorem seqInv_accept (i : Instr) (s : State) : SeqInv (accept i s) := by
  cases i with
  | resolve h => exact nofun
  | read h len => exact nofun
  | decode opcfg opb => exact .inl rfl
  | dispatch h => exact nofun

theorem safe_tickIdle (hphase : s.phase = .idle) : Safe (tickIdle s) := by
  unfold tickIdle
  split
  next => exact safe_of_idle hphase
  next w rest _ => exact seqInv_accept (decode w) _

theorem seqInv_firstRequest (h : resolverChecked s.regs) : SeqInv (firstRequest s) := by
  unfold firstRequest
  cases s.par.order with
  | ctlFirst => exact h
  | fmtFirst => exact h

theorem safe_tickChk (h : s.regs.op ≠ .decode) : Safe (tickChk s) := by
  unfold tickChk
  cases hop : s.regs.op with
  | decode => exact absurd hop h
  | resolve =>
    refine safe_checked fun hchecks => ?_
    obtain ⟨hhp, hhi, -⟩ := checkFailure_eq_none.mp hchecks
    exact seqInv_firstRequest (.inl ⟨hop, hhp, hhi⟩)
  | read =>
    refine safe_checked fun hchecks => ?_
    obtain ⟨hhp, hhi, hlen⟩ := checkFailure_eq_none.mp hchecks
    exact seqInv_firstRequest (.inr ⟨hop, hhp, hhi, hlen hop⟩)
  | dispatch =>
    refine safe_checked fun hchecks => ?_
    obtain ⟨hhp, hhi, -⟩ := checkFailure_eq_none.mp hchecks
    exact ⟨hop, hhp, hhi⟩

/-! ## `RESOLVE` and `READ` -/

/-- The resolver sequence is over: in Bypass mode one record is known to be wanted (R112). -/
theorem safe_resolved (p : Phase) (h : resolverChecked s.regs) : Safe (resolved p s) := by
  obtain ⟨hop, -⟩ | hread := h
  · rw [resolved, hop]
    exact safe_finish _ _ _ _ _
  · have ⟨hop, _⟩ := hread
    rw [resolved, hop]
    simp only
    split
    next hmode => exact ⟨hread, by simp, fun _ => rfl, fun hne => absurd hmode hne⟩
    next hmode => exact ⟨hread, hmode⟩

theorem safe_tickRes0 (hphase : s.phase = .res0) (h : resolverChecked s.regs) : Safe (tickRes0 s) := by
  refine safe_onAnswer (by rwa [SeqInv, hphase]) fun bs as => ?_
  split
  next => exact h
  next => exact safe_resolved _ h

theorem safe_tickRes1 (hphase : s.phase = .res1) (h : resolverChecked s.regs) : Safe (tickRes1 s) := by
  refine safe_onAnswer (by rwa [SeqInv, hphase]) fun bs as => ?_
  split
  next => exact safe_resolved _ h
  next => exact h

/-- `ALEN` takes the minimum (R114), and the burst is made only if that is not none (R115). -/
theorem safe_tickStat (hphase : s.phase = .stat) (hread : readChecked s.regs)
    (hmode : cfgMode s.par s.regs.cfg ≠ .bypass) : Safe (tickStat s) := by
  have ⟨hop, _⟩ := hread
  rw [tickStat, hop]
  refine safe_onAnswer (by rw [SeqInv, hphase]; exact ⟨hread, hmode⟩) fun bs as => ?_
  simp only
  split
  next => exact safe_finish _ _ _ _ _
  next hn => exact ⟨hread, hn, fun heq => absurd heq hmode, fun _ => rfl⟩

/-- The decode begins at record 0, below `ALEN` (R121). -/
theorem safe_tickBurst (hphase : s.phase = .burst) (h : batchKnown s.par s.regs) : Safe (tickBurst s) := by
  have ⟨⟨hop, _⟩, hn, _⟩ := h
  rw [tickBurst, hop]
  refine safe_onAnswer (by rwa [SeqInv, hphase]) fun bs as => .inr ⟨h, ?_⟩
  exact Nat.pos_of_ne_zero fun hzero => hn (BitVec.eq_of_toNat_eq hzero)

/-- A pass of the decode loop leaves what is known of the batch. -/
theorem batchKnown_decodeNext (h : batchKnown s.par s.regs) :
    batchKnown (decodeNext s).par (decodeNext s).regs := by
  rw [decodeNext_regs, decodeInto_regs, decodeNext_par]
  exact h

/-- Below `ALEN` there is a record to decode, and one row for it: the last or another (R121). -/
theorem safe_tickDec (hphase : s.phase = .dec)
    (h : s.regs.op = .decode ∨ (batchKnown s.par s.regs ∧ s.regs.idx.toNat < s.regs.alen.toNat)) :
    Safe (tickDec s) := by
  obtain hop | ⟨hbatch, hidx⟩ := h
  · rw [tickDec, hop]
    exact safe_finish _ _ _ _ _
  · have ⟨⟨hop, _⟩, _⟩ := hbatch
    rw [tickDec, hop]
    simp only
    split_ifs with hmore hlast
    · have hnext : (s.regs.idx + 1).toNat < s.regs.alen.toNat := by rwa [idx_add_one_toNat hidx]
      have hinv : SeqInv (decodeNext s) := by
        rw [SeqInv, decodeNext_phase, hphase]
        exact .inr ⟨batchKnown_decodeNext hbatch, by rwa [decodeNext_idx, decodeNext_alen]⟩
      exact hinv
    · exact safe_finish _ _ _ _ _
    · exact absurd hidx (by omega)

/-! ## `DISPATCH` -/

theorem safe_tickSrcrd (hphase : s.phase = .srcrd) (h : dispatchChecked s.regs) : Safe (tickSrcrd s) := by
  have ⟨hop, _⟩ := h
  rw [tickSrcrd, hop]
  exact safe_onAnswer (by rwa [SeqInv, hphase]) fun bs as => ⟨h, BitVec.and_self⟩

theorem safe_tickScan (h : dispatchChecked s.regs) (hpend : pendOfSrc s.regs) : Safe (tickScan s) := by
  have ⟨hop, _⟩ := h
  rw [tickScan, hop]
  cases hk : highestBit s.regs.pend with
  | none => exact safe_finish _ _ _ _ _
  | some k => exact ⟨h, hpend, hk⟩

/-- A cleared bit leaves only events of the byte read (R163). -/
theorem pendOfSrc_clearBit {r : Regs} (h : pendOfSrc r) (k : BitVec 3) :
    pendOfSrc { r with pend := clearBit r.pend k } := by
  have h : r.pend &&& r.src = r.pend := h
  show clearBit r.pend k &&& r.src = clearBit r.pend k
  rw [clearBit, BitVec.and_assoc, BitVec.and_comm _ r.src, ← BitVec.and_assoc, h]

theorem safe_tickEmit (hphase : s.phase = .emit) (h : dispatchChecked s.regs) (hpend : pendOfSrc s.regs)
    (hk : highestBit s.regs.pend = some s.regs.k) : Safe (tickEmit s) := by
  have ⟨hop, _⟩ := h
  rw [tickEmit, hop]
  simp only
  split
  next =>
    have hinv : SeqInv s := by
      rw [SeqInv, hphase]
      exact ⟨h, hpend, hk⟩
    exact hinv
  next => exact ⟨h, pendOfSrc_clearBit hpend _⟩

/-! ## The transition and the step -/

/-- Every transition from a state that meets the invariant. -/
theorem safe_tick (h : SeqInv s) : Safe (tick s) := by
  cases hrst : s.rst with
  | true =>
    rw [tick_of_rst hrst]
    exact safe_of_idle rfl
  | false =>
    unfold SeqInv at h
    cases hphase : s.phase with
    | idle => exact tick_of_idle hrst hphase ▸ safe_tickIdle hphase
    | chk =>
      rw [hphase] at h
      exact tick_of_chk hrst hphase ▸ safe_tickChk h
    | res0 =>
      rw [hphase] at h
      exact tick_of_res0 hrst hphase ▸ safe_tickRes0 hphase h
    | res1 =>
      rw [hphase] at h
      exact tick_of_res1 hrst hphase ▸ safe_tickRes1 hphase h
    | stat =>
      rw [hphase] at h
      obtain ⟨hread, hmode⟩ := h
      exact tick_of_stat hrst hphase ▸ safe_tickStat hphase hread hmode
    | burst =>
      rw [hphase] at h
      exact tick_of_burst hrst hphase ▸ safe_tickBurst hphase h
    | dec =>
      rw [hphase] at h
      exact tick_of_dec hrst hphase ▸ safe_tickDec hphase h
    | srcrd =>
      rw [hphase] at h
      exact tick_of_srcrd hrst hphase ▸ safe_tickSrcrd hphase h
    | scan =>
      rw [hphase] at h
      obtain ⟨hchecked, hpend⟩ := h
      exact tick_of_scan hrst hphase ▸ safe_tickScan hchecked hpend
    | emit =>
      rw [hphase] at h
      obtain ⟨hchecked, hpend, hk⟩ := h
      exact tick_of_emit hrst hphase ▸ safe_tickEmit hphase hchecked hpend hk

theorem seqInv_tick (h : SeqInv s) (ht : tick s = .next t) : SeqInv t := by
  have hsafe := safe_tick h
  rwa [ht] at hsafe

theorem tick_ne_fault (h : SeqInv s) (r : Fault) : tick s ≠ .fault r := by
  intro ht
  have hsafe := safe_tick h
  rwa [ht] at hsafe

theorem safe_settle (n : Nat) (h : SeqInv s) : Safe (settle n s) := by
  cases ho : settle n s with
  | next t => exact settle_induct (fun _ _ => seqInv_tick) h ho
  | fault r =>
    obtain ⟨u, hu, hfault⟩ := settle_fault (fun _ _ => seqInv_tick) h ho
    exact tick_ne_fault hu r hfault
  | refused r => trivial

/-- Every step from a state that meets the invariant. -/
theorem safe_step (h : SeqInv s) : Safe (step s) := by
  obtain hstep | hstep | ⟨w, rest, hstep⟩ := step_cases s
  · rw [hstep]
    exact safe_of_idle rfl
  · rw [hstep]
    exact safe_settle settleBound h
  · rw [hstep]
    exact safe_settle settleBound (seqInv_accept (decode w) _)

/-- Settles O21: every row of the tables keeps the invariant (`safe_tick`), and a step is made of rows. -/
theorem stepKeepsInvariant : Obligations.StepKeepsInvariant := by
  unfold Obligations.StepKeepsInvariant
  intro s t h
  refine ⟨fun ht => ?_, seqInv_tick h⟩
  have hsafe := safe_step h
  rwa [ht] at hsafe

/-- Settles O22: the tables have a row for every state that meets the invariant. -/
theorem safeStateNeverFaults : Obligations.SafeStateNeverFaults := by
  unfold Obligations.SafeStateNeverFaults
  refine fun s h => ⟨fun r ht => ?_, tick_ne_fault h⟩
  have hsafe := safe_step h
  rwa [ht] at hsafe

end Sys2Proof.Machine
end

section
/-! What a completion carries (R119): one transition passes at most one item, and a completion among these carries all
its records or, with a status that is not OK, nothing. -/

namespace Sys2Proof.Machine

variable {a s t : State} {n : Nat}

/-- A failed operation delivers nothing, and one that delivers records says how many (R119). -/
structure AllOrNothing (c : Completion) : Prop where
  failed : c.status ≠ .ok → c.alen = none ∧ c.cfg = none ∧ c.recs = []
  counted : ∀ n, c.alen = some n → c.recs.length = n.toNat
  uncounted : c.alen = none → c.recs = []

/-- A transition from `a` passes nothing, or one item, which if it is a completion is all or nothing. -/
def PassesOne (a : State) (o : Out) : Prop :=
  ∀ t, o = .next t →
    t.trace = a.trace ∨ ∃ x, t.trace = a.trace ++ [x] ∧ ∀ c, x = .completion c → AllOrNothing c

/-! ## What may pass -/

theorem passesOne_quiet (h : t.trace = a.trace) : PassesOne a (.next t) := by
  rintro _ ⟨⟩
  exact .inl h

theorem passesOne_request {r : Request} (h : t.trace = a.trace ++ [.request r]) : PassesOne a (.next t) := by
  rintro _ ⟨⟩
  exact .inr ⟨_, h, nofun⟩

theorem passesOne_event {k : BitVec 3} (h : t.trace = a.trace ++ [.event k]) : PassesOne a (.next t) := by
  rintro _ ⟨⟩
  exact .inr ⟨_, h, nofun⟩

theorem passesOne_fault (r : Fault) : PassesOne a (.fault r) := fun _ h => by cases h

theorem passesOne_refused (r : Refusal) : PassesOne a (.refused r) := fun _ h => by cases h

theorem passesOne_finish {v : Status} {n : Option (BitVec 6)} {c : Option CfgWord} {rs : List Record}
    (h : s.trace = a.trace) (hc : AllOrNothing ⟨v, n, c, rs⟩) : PassesOne a (.next (finish v n c rs s)) := by
  rintro _ ⟨⟩
  refine .inr ⟨.completion ⟨v, n, c, rs⟩, ?_, ?_⟩
  · rw [finish_eq_ended, ended_trace, h]
  · rintro _ ⟨⟩
    exact hc

/-- A completion without records, such as those of an error (R186), of `RESOLVE` and of `DISPATCH`. -/
theorem allOrNothing_of_no_records {v : Status} {c : Option CfgWord} (hc : v ≠ .ok → c = none) :
    AllOrNothing ⟨v, none, c, []⟩ :=
  ⟨fun hv => ⟨rfl, hc hv, rfl⟩, nofun, fun _ => rfl⟩

/-- A completion with the first `ALEN` entries of `RES`, which has as many (R32, R59). -/
theorem allOrNothing_of_records (n : BitVec 6) (res : Vector Record maxRec) :
    AllOrNothing ⟨.ok, some n, none, res.toList.take n.toNat⟩ := by
  refine ⟨fun hv => absurd rfl hv, ?_, nofun⟩
  rintro _ ⟨⟩
  have hlt := n.isLt
  have hle : n.toNat ≤ maxRec := by
    unfold maxRec
    omega
  simpa using hle

theorem passesOne_raise (e : ErrorKind) (h : s.trace = a.trace) : PassesOne a (.next (raise e s)) :=
  passesOne_finish h (allOrNothing_of_no_records fun _ => rfl)

theorem passesOne_completeRead (h : s.trace = a.trace) : PassesOne a (.next (completeRead s)) :=
  passesOne_finish h (allOrNothing_of_records _ _)

theorem passesOne_checked {k : State → Out} (h : s.trace = a.trace) (hk : PassesOne a (k s)) :
    PassesOne a (checked s k) := by
  obtain ⟨e, -, hs⟩ | ⟨-, hs⟩ := checked_cases s k
  · rw [hs]
    exact passesOne_raise e h
  · rw [hs]
    exact hk

theorem passesOne_onAnswer {k : List Byte → State → Out}
    (hk : ∀ bs as, PassesOne s (k bs (s.setAnswers as))) : PassesOne s (onAnswer n s k) := by
  obtain ⟨-, hs⟩ | ⟨as, -, hs⟩ | ⟨bs, as, -, -, hs⟩ | ⟨bs, as, -, -, hs⟩ := onAnswer_cases n s k
  · rw [hs]
    exact passesOne_quiet rfl
  · rw [hs]
    exact passesOne_raise _ rfl
  · rw [hs]
    exact hk bs as
  · rw [hs]
    exact passesOne_refused _

/-! ## The rows of the tables -/

theorem passesOne_tickIdle (s : State) : PassesOne s (tickIdle s) := by
  unfold tickIdle
  split
  next => exact passesOne_quiet rfl
  next => exact passesOne_quiet (accept_trace ..)

theorem passesOne_firstRequest (s : State) : PassesOne s (.next (firstRequest s)) := by
  unfold firstRequest
  cases s.par.order with
  | ctlFirst => exact passesOne_request rfl
  | fmtFirst => exact passesOne_request rfl

theorem passesOne_tickChk (s : State) : PassesOne s (tickChk s) := by
  unfold tickChk
  cases s.regs.op with
  | resolve => exact passesOne_checked rfl (passesOne_firstRequest s)
  | read => exact passesOne_checked rfl (passesOne_firstRequest s)
  | decode => exact passesOne_fault _
  | dispatch => exact passesOne_checked rfl (passesOne_request rfl)

theorem passesOne_resolved (p : Phase) (h : s.trace = a.trace) : PassesOne a (resolved p s) := by
  unfold resolved
  cases s.regs.op with
  | resolve => exact passesOne_finish h (allOrNothing_of_no_records nofun)
  | read =>
    simp only
    split
    next => exact passesOne_request (congrArg (· ++ _) h)
    next => exact passesOne_request (congrArg (· ++ _) h)
  | decode => exact passesOne_fault _
  | dispatch => exact passesOne_fault _

theorem passesOne_tickRes0 (s : State) : PassesOne s (tickRes0 s) := by
  refine passesOne_onAnswer fun bs as => ?_
  split
  next => exact passesOne_request rfl
  next => exact passesOne_resolved _ rfl

theorem passesOne_tickRes1 (s : State) : PassesOne s (tickRes1 s) := by
  refine passesOne_onAnswer fun bs as => ?_
  split
  next => exact passesOne_resolved _ rfl
  next => exact passesOne_request rfl

theorem passesOne_tickStat (s : State) : PassesOne s (tickStat s) := by
  unfold tickStat
  cases s.regs.op with
  | read =>
    refine passesOne_onAnswer fun bs as => ?_
    simp only
    split
    next => exact passesOne_completeRead rfl
    next => exact passesOne_request rfl
  | resolve => exact passesOne_fault _
  | decode => exact passesOne_fault _
  | dispatch => exact passesOne_fault _

theorem passesOne_tickBurst (s : State) : PassesOne s (tickBurst s) := by
  unfold tickBurst
  cases s.regs.op with
  | read => exact passesOne_onAnswer fun bs as => passesOne_quiet rfl
  | resolve => exact passesOne_fault _
  | decode => exact passesOne_fault _
  | dispatch => exact passesOne_fault _

theorem passesOne_tickDec (s : State) : PassesOne s (tickDec s) := by
  unfold tickDec
  cases s.regs.op with
  | decode => exact passesOne_finish (decodeInto_trace ..) (allOrNothing_of_records 1 _)
  | read =>
    simp only
    split_ifs
    · exact passesOne_quiet (decodeNext_trace s)
    · exact passesOne_completeRead (decodeInto_trace ..)
    · exact passesOne_fault _
  | resolve => exact passesOne_fault _
  | dispatch => exact passesOne_fault _

theorem passesOne_tickSrcrd (s : State) : PassesOne s (tickSrcrd s) := by
  unfold tickSrcrd
  cases s.regs.op with
  | dispatch => exact passesOne_onAnswer fun bs as => passesOne_quiet rfl
  | resolve => exact passesOne_fault _
  | read => exact passesOne_fault _
  | decode => exact passesOne_fault _

theorem passesOne_tickScan (s : State) : PassesOne s (tickScan s) := by
  unfold tickScan
  cases s.regs.op with
  | dispatch =>
    cases highestBit s.regs.pend with
    | none => exact passesOne_finish rfl (allOrNothing_of_no_records fun _ => rfl)
    | some k => exact passesOne_quiet rfl
  | resolve => exact passesOne_fault _
  | read => exact passesOne_fault _
  | decode => exact passesOne_fault _

theorem passesOne_tickEmit (s : State) : PassesOne s (tickEmit s) := by
  unfold tickEmit
  cases s.regs.op with
  | dispatch =>
    simp only
    split
    next => exact passesOne_quiet rfl
    next => exact passesOne_event rfl
  | resolve => exact passesOne_fault _
  | read => exact passesOne_fault _
  | decode => exact passesOne_fault _

theorem passesOne_tick (s : State) : PassesOne s (tick s) := by
  unfold tick
  split
  next => exact passesOne_quiet rfl
  next =>
    cases s.phase with
    | idle => exact passesOne_tickIdle s
    | chk => exact passesOne_tickChk s
    | res0 => exact passesOne_tickRes0 s
    | res1 => exact passesOne_tickRes1 s
    | stat => exact passesOne_tickStat s
    | burst => exact passesOne_tickBurst s
    | dec => exact passesOne_tickDec s
    | srcrd => exact passesOne_tickSrcrd s
    | scan => exact passesOne_tickScan s
    | emit => exact passesOne_tickEmit s

/-! ## The step -/

/-- Every completion that has passed since `a` is all or nothing. -/
def OnlyAllOrNothing (a t : State) : Prop :=
  ∃ items, t.trace = a.trace ++ items ∧ ∀ c ∈ completionsIn items, AllOrNothing c

theorem onlyAllOrNothing_of_trace_eq (h : t.trace = a.trace) : OnlyAllOrNothing a t := ⟨[], by simpa using h, nofun⟩

/-- One more transition. -/
theorem OnlyAllOrNothing.tick (h : OnlyAllOrNothing a s) (ht : tick s = .next t) : OnlyAllOrNothing a t := by
  obtain ⟨items, htrace, hitems⟩ := h
  obtain hquiet | ⟨x, hx, hwhole⟩ := passesOne_tick s t ht
  · exact ⟨items, hquiet.trans htrace, hitems⟩
  · refine ⟨items ++ [x], by rw [hx, htrace, List.append_assoc], fun c hc => ?_⟩
    rw [completionsIn_append] at hc
    obtain hc | hc := List.mem_append.mp hc
    · exact hitems c hc
    · cases x with
      | completion c' => exact List.mem_singleton.mp hc ▸ hwhole c' rfl
      | request r => cases hc
      | event k => cases hc

theorem onlyAllOrNothing_settle (h : OnlyAllOrNothing a s) (ht : settle n s = .next t) : OnlyAllOrNothing a t :=
  settle_induct (fun _ _ => OnlyAllOrNothing.tick) h ht

/-- Every step; acceptance passes nothing. -/
theorem onlyAllOrNothing_step (ht : step s = .next t) : OnlyAllOrNothing s t := by
  obtain hstep | hstep | ⟨w, rest, hstep⟩ := step_cases s
  · rw [hstep] at ht
    cases ht
    exact onlyAllOrNothing_of_trace_eq rfl
  · rw [hstep] at ht
    exact onlyAllOrNothing_settle (onlyAllOrNothing_of_trace_eq rfl) ht
  · rw [hstep] at ht
    have haccept : (accept (decode w) ((s.setCmds rest).latchWord w)).trace = s.trace := accept_trace _ _
    exact onlyAllOrNothing_settle (onlyAllOrNothing_of_trace_eq haccept) ht

/-- Settles O29: what passes in a step is what its transitions pass. -/
theorem completionsAreAllOrNothing : Obligations.CompletionsAreAllOrNothing := by
  unfold Obligations.CompletionsAreAllOrNothing
  intro s t ht c hc
  obtain ⟨items, htrace, hitems⟩ := onlyAllOrNothing_step ht
  rw [passed_of_append htrace] at hc
  obtain ⟨hfailed, hcounted, huncounted⟩ := hitems c hc
  exact ⟨hfailed, hcounted, huncounted⟩

end Sys2Proof.Machine
end

section
/-! `READ` from acceptance to its success (R111 to R118): in Bypass mode, of a queue with records, and of an empty one;
and one pass of its decode loop (R121, R133). -/

namespace Sys2Proof.Machine

/-! ## The successful ends of `READ` -/

section
variable {s : State} {as : List Answer}

/-- In Bypass mode the burst is of one record (R112). -/
theorem readSamples_of_bypass {bs : List Byte} (hmode : cfgMode s.par s.regs.cfg = .bypass)
    (ha : s.answers = .ok bs :: as) (hl : bs.length = 6) :
    readSamples s = .next (ended s [.request (reqBurst s.par 1),
      .completion ⟨.ok, some 1, none, [decodeOne s.par s.regs.cfg (answerRecord bs 0)]⟩] as s.takes) :=
  (if_pos hmode).trans (readBurst_ok (s.setAlen 1) bs as 1 ha rfl hl)

/-- With the count and the burst answered, every record asked for is delivered (R114, R116, R117). -/
theorem readSamples_of_batch {q : Byte} {bs : List Byte} {n : Nat} (hmode : cfgMode s.par s.regs.cfg ≠ .bypass)
    (ha : s.answers = .ok [q] :: .ok bs :: as)
    (halen : actualLen s.regs.len (fifoStatusCount q) = BitVec.ofNat 6 n) (hn : n ≠ 0) (hlt : n < 64)
    (hl : bs.length = 6 * n) :
    readSamples s = .next (ended s [.request (reqFifoStatus s.par),
      .request ⟨.read, s.par.addrDataX0, BitVec.ofNat 16 (6 * n)⟩,
      .completion ⟨.ok, some (BitVec.ofNat 6 n), none,
        (List.range n).map fun i => decodeOne s.par s.regs.cfg (answerRecord bs i)⟩] as s.takes) := by
  have h : PassedSince s [.request (reqFifoStatus s.par)]
      (gotFifoStatus [q] ((askFifoStatus s).setAnswers (.ok bs :: as))) := ⟨rfl, rfl, rfl, rfl, rfl, rfl⟩
  have htoNat : (actualLen s.regs.len (fifoStatusCount q)).toNat = n := by
    rw [halen, BitVec.toNat_ofNat]
    exact Nat.mod_eq_of_lt hlt
  have hne : actualLen s.regs.len (fifoStatusCount q) ≠ 0 := fun hzero => hn (by rw [← htoNat, hzero]; rfl)
  rw [readSamples_of_count hmode ha rfl hne, readBurst_ok _ bs as n rfl htoNat hl, h.ended_eq,
    ← reqBurst_ofNat _ hlt, ← halen]
  rfl

/-- With nothing to fetch there is no burst (R115). -/
theorem readSamples_of_empty {q : Byte} (hmode : cfgMode s.par s.regs.cfg ≠ .bypass)
    (ha : s.answers = .ok [q] :: as) (hn : actualLen s.regs.len (fifoStatusCount q) = 0) :
    readSamples s =
      .next (ended s [.request (reqFifoStatus s.par), .completion ⟨.ok, some 0, none, []⟩] as s.takes) := by
  have h : PassedSince s [.request (reqFifoStatus s.par)]
      (gotFifoStatus [q] ((askFifoStatus s).setAnswers as)) := ⟨rfl, rfl, rfl, rfl, rfl, rfl⟩
  have halen : (gotFifoStatus [q] ((askFifoStatus s).setAnswers as)).regs.alen = 0 := hn
  rw [readSamples, if_neg hmode, onAnswer_ok (n := 1) (s := askFifoStatus s) ha rfl]
  simp only [halen, if_true, completeRead, finish_eq_ended, h.ended_eq]
  rfl

end

/-- Settles O33: `LEN` is checked and not read again. -/
theorem readInBypassDeliversOneRecord : Obligations.ReadInBypassDeliversOneRecord := by
  unfold Obligations.ReadInBypassDeliversOneRecord
  intro s len c f bs as hlen hmode hl ha
  exact execRead_of_ended hlen ha (readSamples_of_bypass hmode rfl hl)

/-- Settles O34: the minimum fits in `ALEN`, and is not none only if `LEN` is not. -/
theorem readDeliversTheQueuedRecords : Obligations.ReadDeliversTheQueuedRecords := by
  unfold Obligations.ReadDeliversTheQueuedRecords
  intro s len c f q bs as n hmin hn hmode hl ha
  have hlen : len ≠ 0 := by
    rintro rfl
    exact hn (hmin.trans (Nat.zero_min _))
  have halen : actualLen len (fifoStatusCount q) = BitVec.ofNat 6 n := by rw [actualLen_eq, hmin]
  exact execRead_of_ended hlen ha (readSamples_of_batch hmode rfl halen hn (by omega) hl)

/-- Settles O35: the minimum of a count of none is none. -/
theorem readOfAnEmptyQueue : Obligations.ReadOfAnEmptyQueue := by
  unfold Obligations.ReadOfAnEmptyQueue
  intro s len c f q as hlen hq hmode ha
  have hn : actualLen len (fifoStatusCount q) = 0 := by
    rw [actualLen_eq, hq, Nat.min_zero]
    rfl
  exact execRead_of_ended hlen ha (readSamples_of_empty hmode rfl hn)

/-! ## The decode loop -/

/-- Row `DEC` with more records to come (R121). -/
theorem tick_of_dec_more {s : State} (hrst : s.rst = false) (hphase : s.phase = .dec) (hop : s.regs.op = .read)
    (hmore : s.regs.idx.toNat + 1 < s.regs.alen.toNat) : tick s = .next (decodeNext s) := by
  rw [tick_of_dec hrst hphase, tickDec, hop]
  exact if_pos hmore

/-- `RES` after a pass: entry `IDX` is written, and the others are as they were (R32). -/
theorem decodeNext_res_toList (s : State) : (decodeNext s).regs.res.toList =
    s.regs.res.toList.set s.regs.idx.toNat (decodeOne s.par s.regs.cfg (bufRecord s.regs.buf s.regs.idx.toNat)) := by
  rw [decodeNext_regs, decodeInto_regs]
  exact Vector.toList_setIfInBounds

/-- Settles O37: the row `DEC` with more records to come is a pass of the loop, and `RES` has an entry `IDX`. -/
theorem decodeLoopWritesOneRecord : Obligations.DecodeLoopWritesOneRecord := by
  unfold Obligations.DecodeLoopWritesOneRecord
  intro s hrst hphase hop hmore
  have hlt := s.regs.alen.isLt
  have hidx : s.regs.idx.toNat < s.regs.res.toList.length := by
    rw [Vector.length_toList, maxRec]
    omega
  refine ⟨decodeNext s, tick_of_dec_more hrst hphase hop hmore, ?_, ?_, ?_, fun j hj => ?_⟩
  · rw [decodeNext_regs, decodeInto_regs]
    rfl
  · rw [decodeNext_res_toList]
    exact List.getElem?_set_self hidx
  · rw [decodeNext_eq, decodeInto_eq]
    rfl
  · rw [decodeNext_res_toList]
    exact List.getElem?_set_ne hj.symm

end Sys2Proof.Machine
end

section
/-! SampleDecoder's first two stages and `DECODE_ONE` (42_sample_decoder.md): the operation, what of `CFG` a record's
decode reads, the assembly of a word, and its correction as a shift of the width. -/

namespace Sys2Proof.Machine

/-! ## The operation and the record -/

/-- Settles O40: the accepted operands are in the latch, and acceptance writes nothing that is kept. -/
theorem decodeDeliversOneRecord : Obligations.DecodeDeliversOneRecord := by
  unfold Obligations.DecodeDeliversOneRecord
  intro s opcfg opb
  exact congrArg Host.Outcome.next (decodeOperand_eq_ended (acceptDecode opcfg opb s))

/-- All that `DECODE_ONE` reads of `CFG` (R134). -/
theorem decodeOne_congr {p : Params} {c c' : CfgWord} (hfull : cfgFull p c = cfgFull p c')
    (hjust : cfgJust p c = cfgJust p c') (hrange : cfgRange p c = cfgRange p c') (b : Six) :
    decodeOne p c b = decodeOne p c' b := by
  have hcorrect : correct p c = correct p c' := by
    funext v
    simp only [correct, shift, width, hfull, hjust, hrange]
  have hscale : scale p c = scale p c' := by
    funext v
    simp only [scale, scaleConst, hfull, hrange]
  simp only [decodeOne, hcorrect, hscale]

/-- Settles O45: FR, JUST and RANGE are the four low bits. -/
theorem decodeIgnoresMode : Obligations.DecodeIgnoresMode := by
  unfold Obligations.DecodeIgnoresMode
  intro p c c' b h
  have hbit (i : Nat) (hi : i < 4) : c.getLsbD i = c'.getLsbD i := by
    simpa [BitVec.getLsbD_extractLsb', hi] using congrArg (·.getLsbD i) h
  have hrange : c.extractLsb' 0 2 = c'.extractLsb' 0 2 := by
    simpa using congrArg (·.extractLsb' 0 2) h
  refine decodeOne_congr ?_ ?_ ?_ b
  · rw [cfgFull, cfgFull, hbit 3 (by decide)]
  · rw [cfgJust, cfgJust, hbit 2 (by decide)]
  · rw [cfgRange, cfgRange, hrange]

/-- Settles O46: each lane is built from its own two bytes by `Lanes.map`. -/
theorem lanesAreIndependent : Obligations.LanesAreIndependent := by
  unfold Obligations.LanesAreIndependent
  intro p c b b'
  refine ⟨⟨rfl, rfl, rfl⟩, ⟨rfl, rfl, rfl⟩, ⟨rfl, rfl, rfl⟩, fun hlo hhi => ?_, fun hlo hhi => ?_, fun hlo hhi => ?_⟩
  all_goals simp [decodeOne, assembleRecord, Lanes.map, hlo, hhi]

/-! ## ASSEMBLE -/

/-- Settles O41: the bytes are the two halves of the word. -/
theorem assembleIsLittleEndian : Obligations.AssembleIsLittleEndian := by
  unfold Obligations.AssembleIsLittleEndian
  have hlow (lo hi : Byte) : (assemble lo hi).extractLsb' 0 8 = lo := BitVec.extractLsb'_append_eq_right
  have hhigh (lo hi : Byte) : (assemble lo hi).extractLsb' 8 8 = hi := BitVec.extractLsb'_append_eq_left
  refine ⟨fun lo hi => ?_, fun lo hi lo' hi' h => ⟨?_, ?_⟩, fun v => ⟨v.extractLsb' 0 8, v.extractLsb' 8 8, ?_⟩,
    fun b => rfl⟩
  · exact BitVec.toInt_append
  · rw [← hlow lo hi, h, hlow]
  · rw [← hhigh lo hi, h, hhigh]
  · exact BitVec.extractLsb'_append_extractLsb'_eq_extractLsb' (by decide) |>.trans BitVec.extractLsb'_eq_self

/-! ## CORRECT -/

theorem width_bounds (p : Params) (c : CfgWord) : 10 ≤ width p c ∧ width p c ≤ 13 := by
  unfold width
  cases cfgRange p c <;> cases cfgFull p c <;> decide

/-- The arithmetic shift is division rounded toward minus infinity (R13). -/
theorem asr16_toInt (v : I16) (s : Nat) : (asr16 v s).toInt = v.toInt.fdiv (2 ^ s) := by
  rw [asr16, BitVec.toInt_sshiftRight, Int.shiftRight_eq_div_pow, Int.fdiv_eq_ediv_of_nonneg _ (by positivity)]
  norm_cast

/-- Dividing away all but `w` bits of an `i16` leaves a `w`-bit integer. -/
theorem fdiv_mem_width {x : Int} {w : Nat} (hw : 10 ≤ w) (hw' : w ≤ 13) (hlo : -2 ^ 15 ≤ x) (hhi : x < 2 ^ 15) :
    -(2 ^ (w - 1)) ≤ x.fdiv (2 ^ (16 - w)) ∧ x.fdiv (2 ^ (16 - w)) ≤ 2 ^ (w - 1) - 1 := by
  rw [Int.fdiv_eq_ediv_of_nonneg _ (by positivity)]
  interval_cases w <;> omega

/-- Settles O43: the shift of the Left case is a floor division, by what the width leaves of 16 bits. -/
theorem correctIsFloorDivision : Obligations.CorrectIsFloorDivision := by
  unfold Obligations.CorrectIsFloorDivision
  intro p c raw
  refine ⟨fun hj => ?_, fun hj => by simp [correct, hj]⟩
  have hcorrect : (correct p c raw).toInt = raw.toInt.fdiv (2 ^ shift p c) := by simp [correct, hj, asr16_toInt]
  obtain ⟨hw, hw'⟩ := width_bounds p c
  refine ⟨hcorrect, ?_⟩
  rw [hcorrect]
  exact fdiv_mem_width hw hw' raw.le_toInt raw.toInt_lt

/-! ## The wordings of the Left case, bit by bit -/

section
variable {raw : I16} {w i : Nat} (hw : w ≤ 16)
include hw

theorem asr16_getLsbD (hi : i < 16) :
    (asr16 raw (16 - w)).getLsbD i = if i < w then raw.getLsbD (16 - w + i) else raw.getLsbD 15 := by
  rw [asr16, BitVec.getLsbD_sshiftRight, BitVec.msb_eq_getLsbD_last]
  simp [show ¬16 ≤ i by omega, show 16 - w + i < 16 ↔ i < w by omega]

theorem ushiftRight_getLsbD : (raw >>> (16 - w)).getLsbD i = (decide (i < w) && raw.getLsbD (16 - w + i)) := by
  rw [BitVec.getLsbD_ushiftRight]
  by_cases h : i < w
  · simp [h]
  · simp [h, BitVec.getLsbD_of_ge raw (16 - w + i) (by omega)]

omit hw in
theorem highMask_getLsbD (hi : i < 16) : (highMask w).getLsbD i = !decide (i < w) := by
  have hones : (0xFFFF#16).getLsbD (i - w) = true := BitVec.getLsbD_allOnes.trans (by simp; omega)
  rw [highMask, BitVec.getLsbD_shiftLeft, hones]
  simp [hi]

/-- A word with the top `w` bits of a negative `raw` at its low end becomes the arithmetic shift under the mask. -/
theorem or_highMask_eq_asr16 {x : I16} (hx : ∀ i < w, x.getLsbD i = raw.getLsbD (16 - w + i))
    (hs : raw.getLsbD 15 = true) : x ||| highMask w = asr16 raw (16 - w) := by
  refine BitVec.eq_of_getLsbD_eq fun i hi => ?_
  rw [BitVec.getLsbD_or, highMask_getLsbD hi, asr16_getLsbD hw hi]
  by_cases h : i < w
  · simp [h, hx]
  · simp only [h, decide_false, Bool.not_false, Bool.or_true, if_false, hs]

/-- A word that is not negative shifts alike either way. -/
theorem ushiftRight_eq_asr16 (hs : raw.getLsbD 15 = false) : raw >>> (16 - w) = asr16 raw (16 - w) := by
  refine BitVec.eq_of_getLsbD_eq fun i hi => ?_
  rw [ushiftRight_getLsbD hw, asr16_getLsbD hw hi]
  by_cases h : i < w
  · simp [h]
  · simp only [h, decide_false, Bool.false_and, if_false, hs]

/-- The top `w` bits of `raw`, sign-extended. -/
theorem sext16_ushiftRight_eq_asr16 (hpos : 0 < w) : sext16 (raw >>> (16 - w)) w = asr16 raw (16 - w) := by
  refine BitVec.eq_of_getLsbD_eq fun i hi => ?_
  have htop : 16 - w + (w - 1) = 15 := by omega
  rw [sext16, asr16_getLsbD hw hi, BitVec.getLsbD_signExtend, BitVec.msb_eq_getLsbD_last, BitVec.getLsbD_setWidth,
    BitVec.getLsbD_setWidth, ushiftRight_getLsbD hw, ushiftRight_getLsbD hw, htop]
  by_cases h : i < w
  · simp [hi, h]
  · simp [hi, h, hpos]

end

/-- Settles O44: below bit `w` each wording has the top bits of `raw`, and from there up its sign. -/
theorem signExtensionWordingsAgree : Obligations.SignExtensionWordingsAgree := by
  unfold Obligations.SignExtensionWordingsAgree
  intro raw w hlo hhi
  have hw : w ≤ 16 := by omega
  refine ⟨?_, ?_, sext16_ushiftRight_eq_asr16 hw (by omega), asr16_toInt raw _⟩
  · split
    next hs => exact or_highMask_eq_asr16 hw (fun i hi => by simp [ushiftRight_getLsbD hw, hi]) hs
    next hs => exact ushiftRight_eq_asr16 hw (by simpa using hs)
  · split
    next hs => exact or_highMask_eq_asr16 hw (fun i hi => by simp [asr16_getLsbD hw (hi.trans_le hw), hi]) hs
    next => rfl

end Sys2Proof.Machine
end

section
/-! Rounding to a binary format (R144, G3). A magnitude pattern is written `e * 2 ^ (prec - 1) + k`, for `k` units of
`2 ^ e`; `nearestMag` is the rounding before the bound of infinity is put on it. It is nearest with ties to even, and
therefore exact on the values of patterns and monotone against them. -/

namespace Sys2Proof.Machine

/-! ## The nearest natural to a ratio -/

section
variable {n d : Nat} (hd : 0 < d)
include hd

/-- `nearestEven` is off by at most a half, and by a half only where it is even. -/
theorem nearestEven_error (n : Nat) :
    2 * (nearestEven n d * d) ≤ 2 * n + d ∧ 2 * n ≤ 2 * (nearestEven n d * d) + d ∧
    (2 * (nearestEven n d * d) = 2 * n + d ∨ 2 * n = 2 * (nearestEven n d * d) + d → nearestEven n d % 2 = 0) := by
  have hn : n / d * d + n % d = n := by rw [Nat.mul_comm]; exact Nat.div_add_mod n d
  have hr : n % d < d := Nat.mod_lt n hd
  unfold nearestEven
  dsimp only
  split
  · omega
  split
  · rw [Nat.add_one_mul (n / d)]
    omega
  · obtain h | h : n / d % 2 = 0 ∨ n / d % 2 = 1 := by omega
    all_goals
      rw [h, Nat.add_mul]
      omega

theorem le_nearestEven {a : Nat} (h : a * d ≤ n) : a ≤ nearestEven n d := by
  obtain ⟨-, hlow, -⟩ := nearestEven_error hd n
  by_contra hlt
  have := Nat.mul_le_mul_right d (show nearestEven n d + 1 ≤ a by omega)
  rw [Nat.add_one_mul] at this
  omega

theorem nearestEven_le {a : Nat} (h : n ≤ a * d) : nearestEven n d ≤ a := by
  obtain ⟨hhigh, -, -⟩ := nearestEven_error hd n
  by_contra hlt
  have := Nat.mul_le_mul_right d (show a + 1 ≤ nearestEven n d by omega)
  rw [Nat.add_one_mul] at this
  omega

omit hd in
/-- It depends on the ratio alone. -/
theorem nearestEven_mul_right {t : Nat} (ht : 0 < t) (n d : Nat) : nearestEven (n * t) (d * t) = nearestEven n d := by
  unfold nearestEven
  simp only [Nat.mul_div_mul_right n d ht, Nat.mul_mod_mul_right, ← Nat.mul_assoc 2, Nat.mul_lt_mul_right ht]

end

/-! ## The units of a pattern -/

section
variable {prec e k b : Nat}

theorem unitsMag_parts (hk : e = 0 ∨ 2 ^ (prec - 1) ≤ k) (hle : k ≤ 2 * 2 ^ (prec - 1)) :
    unitsMag prec (e * 2 ^ (prec - 1) + k) = k * 2 ^ e := by
  unfold unitsMag
  have hf : 0 < 2 ^ (prec - 1) := Nat.two_pow_pos _
  generalize 2 ^ (prec - 1) = f at *
  dsimp only
  obtain hlt | ⟨hge, hlt⟩ | rfl : k < f ∨ (f ≤ k ∧ k < 2 * f) ∨ k = 2 * f := by omega
  · obtain rfl : e = 0 := by omega
    simp [Nat.div_eq_of_lt hlt, Nat.mod_eq_of_lt hlt]
  · obtain ⟨m, rfl⟩ := Nat.exists_eq_add_of_le hge
    have hm : m < f := by omega
    rw [show e * f + (f + m) = m + f * (e + 1) by ring, Nat.add_mul_div_left _ _ hf, Nat.add_mul_mod_self_left,
      Nat.div_eq_of_lt hm, Nat.mod_eq_of_lt hm]
    simp
  · rw [show e * f + 2 * f = f * (e + 2) by ring, Nat.mul_div_cancel_left _ hf, Nat.mul_mod_right]
    simp only [Nat.add_eq_zero_iff, OfNat.ofNat_ne_zero, and_false, if_false, Nat.add_zero, Nat.add_succ_sub_one]
    ring

/-- Every pattern has such parts. -/
theorem exists_parts (prec b : Nat) :
    ∃ e k, b = e * 2 ^ (prec - 1) + k ∧ (e = 0 ∨ 2 ^ (prec - 1) ≤ k) ∧ k < 2 * 2 ^ (prec - 1) := by
  have hf : 0 < 2 ^ (prec - 1) := Nat.two_pow_pos _
  have hb : b / 2 ^ (prec - 1) * 2 ^ (prec - 1) + b % 2 ^ (prec - 1) = b := by
    rw [Nat.mul_comm]
    exact Nat.div_add_mod b _
  have hr : b % 2 ^ (prec - 1) < 2 ^ (prec - 1) := Nat.mod_lt b hf
  cases h : b / 2 ^ (prec - 1) with
  | zero => exact ⟨0, b % 2 ^ (prec - 1), by rw [← h, hb], .inl rfl, by omega⟩
  | succ e =>
    refine ⟨e, 2 ^ (prec - 1) + b % 2 ^ (prec - 1), ?_, .inr (by omega), by omega⟩
    rw [h, Nat.add_one_mul] at hb
    omega

/-- The next pattern is at least one more unit of `2 ^ e` away. -/
theorem unitsMag_succ_ge (hk : e = 0 ∨ 2 ^ (prec - 1) ≤ k) (hle : k ≤ 2 * 2 ^ (prec - 1)) :
    (k + 1) * 2 ^ e ≤ unitsMag prec (e * 2 ^ (prec - 1) + k + 1) := by
  have hf : 0 < 2 ^ (prec - 1) := Nat.two_pow_pos _
  obtain hlt | heq := Nat.lt_or_eq_of_le hle
  · rw [Nat.add_assoc, unitsMag_parts (by omega) hlt]
  · have hb : e * 2 ^ (prec - 1) + k + 1 = (e + 1) * 2 ^ (prec - 1) + (2 ^ (prec - 1) + 1) := by
      rw [heq]
      ring
    rw [hb, unitsMag_parts (.inr (by omega)) (by omega), pow_succ', ← Nat.mul_assoc]
    exact Nat.mul_le_mul_right _ (by omega)

theorem unitsMag_strictMono (prec : Nat) : StrictMono (unitsMag prec) := by
  refine strictMono_nat_of_lt_succ fun b => ?_
  obtain ⟨e, k, rfl, hk, hlt⟩ := exists_parts prec b
  rw [unitsMag_parts hk hlt.le]
  exact (Nat.mul_lt_mul_of_pos_right k.lt_succ_self (Nat.two_pow_pos e)).trans_le (unitsMag_succ_ge hk hlt.le)

/-- Another pattern is at least a unit of `2 ^ e` away, save below the least significand, where units are smaller. -/
theorem unitsMag_gap (hk : e = 0 ∨ 2 ^ (prec - 1) ≤ k) (hle : k ≤ 2 * 2 ^ (prec - 1))
    (hb : b ≠ e * 2 ^ (prec - 1) + k) : (k + 1) * 2 ^ e ≤ unitsMag prec b ∨
      unitsMag prec b + 2 ^ e ≤ k * 2 ^ e ∨ (unitsMag prec b < k * 2 ^ e ∧ e ≠ 0 ∧ k = 2 ^ (prec - 1)) := by
  have hmono := (unitsMag_strictMono prec).monotone
  obtain hlt | hgt := Nat.lt_or_gt_of_ne hb
  · right
    by_cases hleast : e ≠ 0 ∧ k = 2 ^ (prec - 1)
    · exact .inr ⟨unitsMag_parts hk hle ▸ unitsMag_strictMono prec hlt, hleast⟩
    · obtain ⟨j, rfl⟩ : ∃ j, k = j + 1 := Nat.exists_eq_succ_of_ne_zero (by
        have := Nat.two_pow_pos (prec - 1)
        rintro rfl
        obtain rfl | h := hk <;> omega)
      have hpred : unitsMag prec b ≤ unitsMag prec (e * 2 ^ (prec - 1) + j) := hmono (by omega)
      rw [unitsMag_parts (by omega) (by omega)] at hpred
      rw [Nat.add_one_mul]
      exact .inl (Nat.add_le_add_right hpred _)
  · exact .inl ((unitsMag_succ_ge hk hle).trans (hmono hgt))

/-- Adding to the exponent field of a normal pattern multiplies its value by a power of two. -/
theorem unitsMag_add_exponent (hb : 2 ^ (prec - 1) ≤ b) (r : Nat) :
    unitsMag prec (b + r * 2 ^ (prec - 1)) = unitsMag prec b * 2 ^ r := by
  obtain ⟨e, k, rfl, hk, hlt⟩ := exists_parts prec b
  have hk' : 2 ^ (prec - 1) ≤ k := hk.elim (fun he => by simpa [he] using hb) id
  rw [show e * 2 ^ (prec - 1) + k + r * 2 ^ (prec - 1) = (e + r) * 2 ^ (prec - 1) + k by ring,
    unitsMag_parts (.inr hk') hlt.le, unitsMag_parts hk hlt.le]
  ring

/-- A number of at most `prec` significant bits is the value of a pattern. -/
theorem exists_unitsMag_eq (s : Nat) {m : Nat} (hm : m ≤ 2 * 2 ^ (prec - 1)) : ∃ b, unitsMag prec b = m * 2 ^ s := by
  induction s generalizing m with
  | zero => exact ⟨0 * 2 ^ (prec - 1) + m, unitsMag_parts (.inl rfl) hm⟩
  | succ s ih =>
    obtain hge | hlt := Nat.le_total (2 ^ (prec - 1)) m
    · exact ⟨(s + 1) * 2 ^ (prec - 1) + m, unitsMag_parts (.inr hge) hm⟩
    · obtain ⟨b, hb⟩ := ih (m := m * 2) (by omega)
      exact ⟨b, by rw [hb]; ring⟩

end

/-! ## The rounding before the bound of infinity -/

/-- The bits of the quotient `q` past the significand. -/
def dropBits (prec q : Nat) : Nat := if q = 0 then 0 else Nat.log2 q + 1 - prec

/-- The pattern nearest to `n / d` units, without the bound of infinity. -/
def nearestMag (prec n d : Nat) : Nat :=
  dropBits prec (n / d) * 2 ^ (prec - 1) + nearestEven n (d * 2 ^ dropBits prec (n / d))

theorem roundMag_eq_min (prec low inf num den : Nat) :
    roundMag prec low inf num den = min (nearestMag prec (num * 2 ^ low) den) inf := rfl

section
variable {prec n d b : Nat} (hprec : 1 < prec) (hd : 0 < d)

include hprec in
/-- The quotient has `prec + e` bits, or fewer if no bit is dropped. -/
theorem dropBits_eq_iff {q e : Nat} :
    dropBits prec q = e ↔ (e = 0 ∨ 2 ^ (prec - 1) * 2 ^ e ≤ q) ∧ q < 2 * 2 ^ (prec - 1) * 2 ^ e := by
  rw [← pow_succ', ← pow_add, ← pow_add, dropBits]
  split
  next h0 =>
    have hpos := Nat.two_pow_pos (prec - 1 + e)
    have hpos' := Nat.two_pow_pos (prec - 1 + 1 + e)
    omega
  next h0 =>
    rw [← Nat.le_log2 h0, ← Nat.log2_lt h0]
    omega

include hprec hd

theorem nearestMag_eq {e : Nat} (hlow : e = 0 ∨ 2 ^ (prec - 1) * (d * 2 ^ e) ≤ n)
    (hhigh : n < 2 * 2 ^ (prec - 1) * (d * 2 ^ e)) :
    nearestMag prec n d = e * 2 ^ (prec - 1) + nearestEven n (d * 2 ^ e) := by
  have he : dropBits prec (n / d) = e := by
    rw [dropBits_eq_iff hprec, Nat.le_div_iff_mul_le hd, Nat.div_lt_iff_lt_mul hd]
    rw [show 2 ^ (prec - 1) * 2 ^ e * d = 2 ^ (prec - 1) * (d * 2 ^ e) by ring]
    rw [show 2 * 2 ^ (prec - 1) * 2 ^ e * d = 2 * 2 ^ (prec - 1) * (d * 2 ^ e) by ring]
    exact ⟨hlow, hhigh⟩
  rw [nearestMag, he]

/-- The exponent that the rounding takes. -/
theorem exists_nearestMag_eq (n : Nat) : ∃ e, (e = 0 ∨ 2 ^ (prec - 1) * (d * 2 ^ e) ≤ n) ∧
    n < 2 * 2 ^ (prec - 1) * (d * 2 ^ e) ∧
    nearestMag prec n d = e * 2 ^ (prec - 1) + nearestEven n (d * 2 ^ e) := by
  obtain ⟨hlow, hhigh⟩ := (dropBits_eq_iff hprec (q := n / d)).1 rfl
  rw [Nat.le_div_iff_mul_le hd] at hlow
  rw [Nat.div_lt_iff_lt_mul hd] at hhigh
  refine ⟨dropBits prec (n / d), hlow.imp_right fun h => ?_, ?_, rfl⟩
  · linarith
  · linarith

omit hd in
/-- A pattern is even with its significand. -/
theorem parts_mod_two (e k : Nat) : (e * 2 ^ (prec - 1) + k) % 2 = k % 2 := by
  rw [show prec - 1 = prec - 2 + 1 by omega, pow_succ, ← Nat.mul_assoc, Nat.mul_add_mod_self_right]

omit hprec hd in
/-- A number `v` one unit `D` or more from `u`, or below `u` where `u` is below `n`, is no nearer to `n` than `u` is. -/
theorem abs_sub_le_of_gap {u v D : Nat} (hover : 2 * u ≤ 2 * n + D) (hunder : 2 * n ≤ 2 * u + D)
    (hgap : u + D ≤ v ∨ v + D ≤ u ∨ (v < u ∧ u ≤ n)) :
    |(u : Int) - n| ≤ |(v : Int) - n| ∧
    (|(u : Int) - n| = |(v : Int) - n| → 2 * u = 2 * n + D ∨ 2 * n = 2 * u + D) := by
  obtain ⟨hu, hun⟩ | ⟨hu, hun⟩ := abs_cases ((u : Int) - n) <;>
    obtain ⟨hv, hvn⟩ | ⟨hv, hvn⟩ := abs_cases ((v : Int) - n)
  all_goals
    rw [hu, hv]
    omega

/-- No other pattern is nearer, and one as near is a tie, which goes to the even pattern. -/
theorem nearestMag_nearest (hb : b ≠ nearestMag prec n d) :
    |((unitsMag prec (nearestMag prec n d) * d : Nat) : Int) - n| ≤ |((unitsMag prec b * d : Nat) : Int) - n| ∧
    (|((unitsMag prec (nearestMag prec n d) * d : Nat) : Int) - n| = |((unitsMag prec b * d : Nat) : Int) - n| →
      nearestMag prec n d % 2 = 0) := by
  obtain ⟨e, hlow, hhigh, hmag⟩ := exists_nearestMag_eq hprec hd n
  have hD : 0 < d * 2 ^ e := Nat.mul_pos hd (Nat.two_pow_pos e)
  obtain ⟨hover, hunder, htie⟩ := nearestEven_error hD n
  have hparts : e = 0 ∨ 2 ^ (prec - 1) ≤ nearestEven n (d * 2 ^ e) := hlow.imp_right (le_nearestEven hD)
  have hle : nearestEven n (d * 2 ^ e) ≤ 2 * 2 ^ (prec - 1) := nearestEven_le hD hhigh.le
  rw [hmag] at hb ⊢
  generalize nearestEven n (d * 2 ^ e) = k at *
  have hunits (m : Nat) : m * 2 ^ e * d = m * (d * 2 ^ e) := by ring
  have hgap : k * (d * 2 ^ e) + d * 2 ^ e ≤ unitsMag prec b * d ∨ unitsMag prec b * d + d * 2 ^ e ≤ k * (d * 2 ^ e) ∨
      (unitsMag prec b * d < k * (d * 2 ^ e) ∧ k * (d * 2 ^ e) ≤ n) := by
    refine (unitsMag_gap hparts hle hb).imp (fun h => ?_) (.imp (fun h => ?_) fun ⟨h, he, hk⟩ => ⟨?_, ?_⟩)
    · rw [← Nat.add_one_mul, ← hunits]
      exact Nat.mul_le_mul_right d h
    · calc unitsMag prec b * d + d * 2 ^ e = (unitsMag prec b + 2 ^ e) * d := by ring
        _ ≤ k * (d * 2 ^ e) := hunits k ▸ Nat.mul_le_mul_right d h
    · exact hunits k ▸ Nat.mul_lt_mul_of_pos_right h hd
    · exact hk ▸ hlow.resolve_left he
  rw [unitsMag_parts hparts hle, hunits, parts_mod_two hprec]
  obtain ⟨hnear, heq⟩ := abs_sub_le_of_gap hover hunder hgap
  exact ⟨hnear, fun h => htie (heq h)⟩

/-- What is at most the value of a pattern is rounded to at most that pattern. -/
theorem nearestMag_le (h : n ≤ unitsMag prec b * d) : nearestMag prec n d ≤ b := by
  by_contra hlt
  obtain ⟨hnear, -⟩ := nearestMag_nearest hprec hd (n := n) (b := b) (by omega)
  have hunits := Nat.mul_lt_mul_of_pos_right (unitsMag_strictMono prec (Nat.lt_of_not_le hlt)) hd
  rw [abs_of_nonneg (by omega), abs_of_nonneg (by omega)] at hnear
  omega

/-- What is at least the value of a pattern is rounded to at least that pattern. -/
theorem le_nearestMag (h : unitsMag prec b * d ≤ n) : b ≤ nearestMag prec n d := by
  by_contra hlt
  obtain ⟨hnear, -⟩ := nearestMag_nearest hprec hd (n := n) (b := b) (by omega)
  have hunits := Nat.mul_lt_mul_of_pos_right (unitsMag_strictMono prec (Nat.lt_of_not_le hlt)) hd
  rw [abs_of_nonpos (by omega), abs_of_nonpos (by omega)] at hnear
  omega

/-- The value of a pattern is rounded to that pattern. -/
theorem nearestMag_of_units (h : n = unitsMag prec b * d) : nearestMag prec n d = b :=
  Nat.le_antisymm (nearestMag_le hprec hd h.le) (le_nearestMag hprec hd h.ge)

/-- Above the subnormal numbers, a power of two goes into the exponent field. -/
theorem nearestMag_mul_two_pow (h : 2 ^ (prec - 1) * d ≤ n) (r : Nat) :
    nearestMag prec (n * 2 ^ r) d = nearestMag prec n d + r * 2 ^ (prec - 1) := by
  obtain ⟨e, hlow, hhigh, hmag⟩ := exists_nearestMag_eq hprec hd n
  have hnormal : 2 ^ (prec - 1) * (d * 2 ^ e) ≤ n := hlow.elim (fun he => by simpa [he] using h) id
  have hD : d * 2 ^ (e + r) = d * 2 ^ e * 2 ^ r := by ring
  have hr := Nat.two_pow_pos r
  rw [nearestMag_eq hprec hd (e := e + r), hmag, hD, nearestEven_mul_right hr]
  · ring
  · rw [hD, ← Nat.mul_assoc]
    exact .inr (Nat.mul_le_mul_right _ hnormal)
  · rw [hD, ← Nat.mul_assoc]
    exact Nat.mul_lt_mul_of_pos_right hhigh hr

omit hprec hd in
/-- It depends on the ratio alone. -/
theorem nearestMag_mul_right {t : Nat} (ht : 0 < t) (prec n d : Nat) :
    nearestMag prec (n * t) (d * t) = nearestMag prec n d := by
  rw [nearestMag, nearestMag, Nat.mul_div_mul_right n d ht, Nat.mul_right_comm, nearestEven_mul_right ht]

end

end Sys2Proof.Machine
end

section
/-! Binary32 (R142 to R144): `round32` as the general rounding, patterns as sign and magnitude, the conversion of an
`i16`, and the multiply of a count by a literal. -/

namespace Sys2Proof.Machine

/-! ## Rounding to binary32 -/

section
variable {num den b : Nat}

theorem units32_strictMono : StrictMono units32 := unitsMag_strictMono 24

theorem round32_le_inf32 (num den : Nat) : round32 num den ≤ inf32 := Nat.min_le_right _ _

theorem round32_eq_nearestMag (h : round32 num den < inf32) : round32 num den = nearestMag 24 (num * 2 ^ 149) den := by
  rw [round32, roundMag_eq_min] at h ⊢
  omega

theorem round32_le (hden : 0 < den) (h : num * 2 ^ 149 ≤ units32 b * den) : round32 num den ≤ b :=
  (Nat.min_le_left _ _).trans (nearestMag_le (by decide) hden h)

theorem le_round32 (hden : 0 < den) (hb : b ≤ inf32) (h : units32 b * den ≤ num * 2 ^ 149) : b ≤ round32 num den :=
  Nat.le_min.2 ⟨le_nearestMag (by decide) hden h, hb⟩

theorem round32_zero (hden : 0 < den) : round32 0 den = 0 := Nat.le_zero.1 (round32_le hden (by simp))

/-- The pattern of `2 ^ 127` bounds the rounding of what is no more than that. -/
theorem round32_lt_inf32 (hden : 0 < den) (h : num ≤ 2 ^ 127 * den) : round32 num den < inf32 := by
  have hunits : units32 0x7F000000 = 2 ^ 127 * 2 ^ 149 := by decide +kernel
  have hle : round32 num den ≤ 0x7F000000 := by
    refine round32_le hden ?_
    rw [hunits, Nat.mul_right_comm]
    exact Nat.mul_le_mul_right _ h
  exact hle.trans_lt (by decide)

/-- It depends on the ratio alone. -/
theorem round32_mul_right {t : Nat} (ht : 0 < t) (num den : Nat) : round32 (num * t) (den * t) = round32 num den := by
  rw [round32, round32, roundMag_eq_min, roundMag_eq_min, Nat.mul_right_comm, nearestMag_mul_right ht]

/-- Among the normal numbers, a power of two goes into the exponent field (R145). -/
theorem round32_mul_two_pow (hden : 0 < den) {r : Nat} (hlow : 2 ^ 23 * den ≤ num * 2 ^ 149)
    (hhigh : num * 2 ^ r ≤ 2 ^ 127 * den) : round32 (num * 2 ^ r) den = round32 num den + r * 2 ^ 23 := by
  have hhigh' : num ≤ 2 ^ 127 * den := (Nat.le_mul_of_pos_right num (Nat.two_pow_pos r)).trans hhigh
  rw [round32_eq_nearestMag (round32_lt_inf32 hden hhigh), round32_eq_nearestMag (round32_lt_inf32 hden hhigh'),
    Nat.mul_right_comm]
  exact nearestMag_mul_two_pow (by decide) hden hlow r

/-- `round32` in units of `2 ^ -149`, as a distance of rationals. -/
theorem abs_units32_sub_ratio (hden : 0 < den) (num b : Nat) :
    |(units32 b : ℚ) - (num : ℚ) / den * 2 ^ 149| =
      (|((units32 b * den : Nat) : Int) - (num * 2 ^ 149 : Nat)| : Int) / (den : ℚ) := by
  have hpos : (0 : ℚ) < den := by exact_mod_cast hden
  rw [eq_div_iff hpos.ne']
  nth_rw 2 [← abs_of_pos hpos]
  rw [← abs_mul]
  rw [sub_mul, div_mul_eq_mul_div, div_mul_cancel₀ _ hpos.ne']
  norm_num

end

/-- Settles O50: the result is the general rounding, where it is not infinity. -/
theorem roundingIsNearestEven : Obligations.RoundingIsNearestEven := by
  unfold Obligations.RoundingIsNearestEven
  intro num den hden hfin b _ hb
  have hpos : (0 : ℚ) < den := by exact_mod_cast hden
  dsimp only
  rw [abs_units32_sub_ratio hden, abs_units32_sub_ratio hden, div_le_div_iff_of_pos_right hpos, div_left_inj' hpos.ne',
    Int.cast_le, Int.cast_inj, round32_eq_nearestMag hfin]
  rw [round32_eq_nearestMag hfin] at hb
  exact nearestMag_nearest (by decide) hden hb

/-! ## Patterns -/

section
variable {neg : Bool} {mag : Nat}

@[simp] theorem f32Neg_f32Of (neg : Bool) (mag : Nat) : f32Neg (f32Of neg mag) = neg := by
  rw [f32Neg, f32Of, BitVec.msb_append]
  cases neg <;> rfl

theorem f32Mag_f32Of (h : mag ≤ inf32) (neg : Bool) : f32Mag (f32Of neg mag) = mag := by
  rw [f32Mag, f32Of, BitVec.extractLsb'_append_eq_right, BitVec.toNat_ofNat]
  exact Nat.mod_eq_of_lt (h.trans_lt (by decide))

@[simp] theorem f32Mag_f32Of_round32 (neg : Bool) (num den : Nat) :
    f32Mag (f32Of neg (round32 num den)) = round32 num den := f32Mag_f32Of (round32_le_inf32 num den) neg

theorem f32Of_toNat (neg : Bool) (h : mag < 2 ^ 31) : (f32Of neg mag).toNat = neg.toNat * 2 ^ 31 + mag := by
  rw [f32Of, BitVec.toNat_append, BitVec.toNat_ofNat, Nat.mod_eq_of_lt h, ← Nat.shiftLeft_add_eq_or_of_lt h,
    Nat.shiftLeft_eq]
  simp

/-- The sign bit is bit 31. -/
theorem f32Of_not (neg : Bool) (mag : Nat) : f32Of (!neg) mag = f32Of neg mag ^^^ 0x80000000 := by
  have h : (0x80000000 : F32) = 1#1 ++ 0#31 := by decide
  rw [f32Of, f32Of, h, BitVec.xor_append, BitVec.xor_zero]
  cases neg <;> rfl

/-- Adding to the exponent field. -/
theorem f32Of_add (neg : Bool) {m : Nat} (h : mag + m < 2 ^ 31) :
    f32Of neg (mag + m) = f32Of neg mag + BitVec.ofNat 32 m := by
  refine BitVec.eq_of_toNat_eq ?_
  have hneg : neg.toNat ≤ 1 := Bool.toNat_le neg
  rw [BitVec.toNat_add, BitVec.toNat_ofNat, f32Of_toNat neg h, f32Of_toNat neg (by omega)]
  omega

theorem f32Value_f32Of (h : mag ≤ inf32) (neg : Bool) :
    f32Value (f32Of neg mag) = (if neg then -1 else 1) * (units32 mag : ℚ) / 2 ^ 149 := by
  rw [f32Value, f32Neg_f32Of, f32Mag_f32Of h]

end

/-! ## The conversion of a count -/

theorem natAbs_toInt_le (v : I16) : v.toInt.natAbs ≤ 2 ^ 15 := by
  have hlo := v.le_toInt
  have hhi := v.toInt_lt
  omega

/-- The sign bit is the sign of the value. -/
theorem toInt_eq_sign_mul_natAbs (v : I16) : (v.toInt : ℚ) = (if v.msb then -1 else 1) * (v.toInt.natAbs : ℚ) := by
  rw [BitVec.msb_eq_toInt]
  by_cases h : v.toInt < 0
  · simp [h, Nat.cast_natAbs, abs_of_neg h]
  · simp [h, Nat.cast_natAbs, abs_of_nonneg (Int.not_lt.1 h)]

/-- A count has at most 16 significant bits, so it is the value of the pattern it is rounded to (R143). -/
theorem units32_round32_natAbs (v : I16) :
    round32 v.toInt.natAbs 1 < inf32 ∧ units32 (round32 v.toInt.natAbs 1) = v.toInt.natAbs * 2 ^ 149 := by
  have hle := natAbs_toInt_le v
  obtain ⟨b, hb⟩ : ∃ b, units32 b = v.toInt.natAbs * 2 ^ 149 := exists_unitsMag_eq 149 (by norm_num; omega)
  have hfin : round32 v.toInt.natAbs 1 < inf32 := round32_lt_inf32 (by decide) (by norm_num; omega)
  have hexact : nearestMag 24 (v.toInt.natAbs * 2 ^ 149) 1 = b :=
    nearestMag_of_units (by decide) (by decide) (hb ▸ (Nat.mul_one _).symm)
  exact ⟨hfin, by rw [round32_eq_nearestMag hfin, hexact, hb]⟩

@[simp] theorem f32Neg_i2f32 (v : I16) : f32Neg (i2f32 v) = v.msb := f32Neg_f32Of _ _

@[simp] theorem f32Mag_i2f32 (v : I16) : f32Mag (i2f32 v) = round32 v.toInt.natAbs 1 := f32Mag_f32Of_round32 _ _ _

/-- Settles O49: the magnitude is exact, and the sign is that of the count. -/
theorem integerConversionIsExact : Obligations.IntegerConversionIsExact := by
  unfold Obligations.IntegerConversionIsExact
  refine ⟨fun v => ?_, by decide⟩
  obtain ⟨hfin, hunits⟩ := units32_round32_natAbs v
  refine ⟨by simpa [f32Finite] using hfin, ?_⟩
  rw [i2f32, f32Value_f32Of hfin.le, hunits, toInt_eq_sign_mul_natAbs]
  rw [Nat.cast_mul, Nat.cast_pow, Nat.cast_ofNat, ← mul_assoc, mul_div_cancel_right₀ _ (by positivity)]

/-! ## The multiply -/

/-- With no special operand, the multiply is the product of the magnitudes, rounded once, with the sign of the
product (R144). -/
theorem fmul32_of_finite {a b : F32} (ha : f32Mag a < inf32) (hb : f32Mag b < inf32) :
    fmul32 a b = f32Of (f32Neg a ^^ f32Neg b) (round32 (units32 (f32Mag a) * units32 (f32Mag b)) (2 ^ 298)) := by
  have hnan {x : F32} (hx : f32Mag x < inf32) : f32IsNaN x = false := by simp [f32IsNaN, hx.le]
  have hinf {x : F32} (hx : f32Mag x < inf32) : f32IsInf x = false := by simp [f32IsInf, hx.ne]
  rw [fmul32, hnan ha, hnan hb, hinf ha, hinf hb]
  rfl

/-- The multiply of a count by a positive finite pattern. -/
theorem fmul32_i2f32 (v : I16) {k : F32} (hneg : f32Neg k = false) (hk : f32Mag k < inf32) :
    fmul32 (i2f32 v) k = f32Of v.msb (round32 (v.toInt.natAbs * units32 (f32Mag k)) (2 ^ 149)) := by
  obtain ⟨hfin, hunits⟩ := units32_round32_natAbs v
  have hden : 2 ^ 298 = 2 ^ 149 * 2 ^ 149 := by rw [← pow_add]
  rw [fmul32_of_finite (by rwa [f32Mag_i2f32]) hk, f32Neg_i2f32, f32Mag_i2f32, hneg, hunits, Bool.xor_false,
    Nat.mul_right_comm, hden, round32_mul_right (Nat.two_pow_pos 149)]

/-- A literal is less than `2 ^ 16`, and so is its pattern. -/
theorem k32_bounds (c : Decimal) : f32Mag (k32 c) < inf32 ∧ units32 (f32Mag (k32 c)) ≤ 2 ^ 165 := by
  have hunits : units32 0x47800000 = 2 ^ 165 := by decide +kernel
  have hden : 0 < 10 ^ c.places.val := by positivity
  have hle : f32Mag (k32 c) ≤ 0x47800000 := by
    rw [k32, f32Mag_f32Of_round32]
    refine round32_le hden ?_
    rw [hunits]
    have hmant := c.mant.isLt
    nlinarith
  exact ⟨hle.trans_lt (by decide), hunits ▸ units32_strictMono.monotone hle⟩

theorem mulF32Rne_eq (v : I16) (c : Decimal) :
    mulF32Rne v c = f32Of v.msb (round32 (v.toInt.natAbs * units32 (f32Mag (k32 c))) (2 ^ 149)) :=
  fmul32_i2f32 v (f32Neg_f32Of _ _) (k32_bounds c).1

/-- Settles O52: the largest product is `2 ^ 15 * 2 ^ 16`. -/
theorem multiplyRoundsOnce : Obligations.MultiplyRoundsOnce := by
  unfold Obligations.MultiplyRoundsOnce
  intro v c
  refine ⟨?_, mulF32Rne_eq v c⟩
  obtain ⟨-, hk⟩ := k32_bounds c
  have hprod : v.toInt.natAbs * units32 (f32Mag (k32 c)) ≤ 2 ^ 15 * 2 ^ 165 := Nat.mul_le_mul (natAbs_toInt_le v) hk
  rw [f32Finite, mulF32Rne_eq, f32Mag_f32Of_round32, decide_eq_true_iff]
  exact round32_lt_inf32 (Nat.two_pow_pos 149) (hprod.trans (by norm_num))

/-! ## Signs -/

/-- Either multiply is a magnitude that depends on the count's magnitude alone, under the count's sign. -/
theorem exists_mulScale_eq (m : Numerics) (c : Decimal) :
    ∃ mag : Nat → Nat, mag 0 = 0 ∧ ∀ v : I16, mulScale m v c = f32Of v.msb (mag v.toInt.natAbs) := by
  cases m with
  | f32Rne =>
    refine ⟨fun n => round32 (n * units32 (f32Mag (k32 c))) (2 ^ 149), ?_, fun v => mulF32Rne_eq v c⟩
    dsimp only
    rw [Nat.zero_mul, round32_zero (Nat.two_pow_pos 149)]
  | f64Narrow =>
    refine ⟨fun n => round32 (units64 (round64 (n * units64 (round64 c.mant.val (10 ^ c.places.val))) (2 ^ 1074)))
      (2 ^ 1074), ?_, fun v => rfl⟩
    have h64 : units64 (round64 0 (2 ^ 1074)) = 0 := by decide +kernel
    dsimp only
    rw [Nat.zero_mul, h64, round32_zero (Nat.two_pow_pos 1074)]

/-- Settles O53: negation keeps the magnitude of a count and changes its sign. -/
theorem scaleIsSignSymmetric : Obligations.ScaleIsSignSymmetric := by
  unfold Obligations.ScaleIsSignSymmetric
  refine ⟨fun p c v hzero hmin => ?_, fun p c => ?_⟩
  all_goals obtain ⟨mag, hmag, h⟩ := exists_mulScale_eq p.numerics (scaleConst p c)
  · have hmin' : v ≠ BitVec.intMin 16 := hmin
    have hmsb : (-v).msb = !v.msb := by
      have hzero' : v ≠ 0#16 := hzero
      simp [hzero', hmin']
    rw [scale, scale, h, h, hmsb, BitVec.toInt_neg_of_ne_intMin hmin', Int.natAbs_neg, f32Of_not]
  · rw [scale, h]
    exact congrArg (f32Of false) hmag

end Sys2Proof.Machine
end

section
/-! The decode under the spec's parameters: the widths and the table of one lane (R136, R147), the four constants
(R142), and what `SCALE` makes of a count with them (R144, R145). The constants are `0.0039 * 2 ^ e`, so everything is
said at G2 and moved to the other ranges by `e` in the exponent field. -/

namespace Sys2Proof.Machine

/-! ## Widths -/

theorem fullWidth_encRange (b : BitVec 2) : fullWidth (specParams.encRange.at b) = 10 + b.toNat := by
  revert b
  decide

theorem cfgFull_specParams (c : CfgWord) : cfgFull specParams c = c.getLsbD 3 := beq_true _

theorem width_specParams (c : CfgWord) :
    width specParams c = 10 + (if c.getLsbD 3 then (c.extractLsb' 0 2).toNat else 0) := by
  rw [width, cfgRange, fullWidth_encRange, cfgFull_specParams]
  split <;> rfl

/-- Settles O42: in full resolution each range adds a bit. -/
theorem widthTable : Obligations.WidthTable := by
  unfold Obligations.WidthTable
  exact fun c => ⟨width_specParams c, rfl, by decide⟩

/-! ## The constants -/

/-- The power of two by which the constant of a configuration exceeds the one at G2 (R141). -/
def scaleExp (c : CfgWord) : Nat := if c.getLsbD 3 then 0 else (c.extractLsb' 0 2).toNat

/-- The magnitude pattern of the constant nearest to `0.0039 * 2 ^ e` (R142). -/
def scaleMag (e : Nat) : Nat := 0x3B7F9724 + e * 2 ^ 23

theorem scaleExp_le (c : CfgWord) : scaleExp c ≤ 3 := by
  unfold scaleExp
  split <;> omega

theorem units32_scaleMag (e : Nat) : units32 (scaleMag e) = 4187593 * 2 ^ 119 * 2 ^ e := by
  have h : units32 0x3B7F9724 = 4187593 * 2 ^ 119 := by decide +kernel
  rw [← h]
  exact unitsMag_add_exponent (by decide) e

theorem scaleMag_le_inf32 {e : Nat} (he : e ≤ 3) : scaleMag e ≤ inf32 := by
  unfold scaleMag inf32
  omega

/-- The literal of a configuration, and its pattern. -/
theorem scaleConst_specParams (c : CfgWord) :
    (scaleConst specParams c).mant.val = 39 * 2 ^ scaleExp c ∧ (scaleConst specParams c).places.val = 4 ∧
    k32 (scaleConst specParams c) = f32Of false (scaleMag (scaleExp c)) := by
  revert c
  decide +kernel

theorem decimalValue_scaleConst (c : CfgWord) :
    decimalValue (scaleConst specParams c) = 39 / 10 ^ 4 * 2 ^ scaleExp c := by
  obtain ⟨hmant, hplaces, -⟩ := scaleConst_specParams c
  rw [decimalValue, hmant, hplaces]
  push_cast
  ring

theorem f32Value_scaleMag {e : Nat} (he : e ≤ 3) :
    f32Value (f32Of false (scaleMag e)) = 4187593 / 2 ^ 30 * 2 ^ e := by
  rw [f32Value_f32Of (scaleMag_le_inf32 he), units32_scaleMag]
  push_cast
  ring

/-- Settles O48: the four patterns differ in the exponent alone. -/
theorem scaleConstants : Obligations.ScaleConstants := by
  unfold Obligations.ScaleConstants
  have h0 : f32Value 0x3B7F9724 = 4187593 / 2 ^ 30 * 2 ^ 0 := f32Value_scaleMag (e := 0) (by decide)
  have h1 : f32Value 0x3BFF9724 = 4187593 / 2 ^ 30 * 2 ^ 1 := f32Value_scaleMag (e := 1) (by decide)
  have h2 : f32Value 0x3C7F9724 = 4187593 / 2 ^ 30 * 2 ^ 2 := f32Value_scaleMag (e := 2) (by decide)
  have h3 : f32Value 0x3CFF9724 = 4187593 / 2 ^ 30 * 2 ^ 3 := f32Value_scaleMag (e := 3) (by decide)
  refine ⟨by decide +kernel, by decide +kernel, by decide +kernel, by decide +kernel, by decide +kernel, ?_⟩
  rw [h0, h1, h2, h3]
  norm_num [decimalValue, specParams, abs_lt]

/-! ## The table of one lane -/

theorem correct_specParams (c : CfgWord) (v : I16) : correct specParams c v =
    if c.getLsbD 2 then asr16 v (6 - if c.getLsbD 3 then (c.extractLsb' 0 2).toNat else 0) else v := by
  have hshift : shift specParams c = 6 - if c.getLsbD 3 then (c.extractLsb' 0 2).toNat else 0 := by
    rw [shift, width_specParams]
    omega
  rw [correct, hshift, cfgJust, show specParams.justLeft = true from rfl]
  cases c.getLsbD 2 <;> rfl

/-- The pattern of the constant, by FR and RANGE. -/
theorem k32_scaleConst (c : CfgWord) : k32 (scaleConst specParams c) =
    if c.getLsbD 3 then 0x3B7F9724 else BitVec.ofNat 32 (0x3B7F9724 + (c.extractLsb' 0 2).toNat * 0x00800000) := by
  revert c
  decide +kernel

/-- Settles O47: the rows of JUST are those of `correct_specParams`, and the constant is that of FR and RANGE. -/
theorem decodeTable : Obligations.DecodeTable := by
  unfold Obligations.DecodeTable
  intro c b
  have hcor : (decodeOne specParams c b).cor = (decodeOne specParams c b).raw.map (correct specParams c) := rfl
  dsimp only
  rw [hcor, ← k32_scaleConst, funext (correct_specParams c)]
  refine ⟨fun hj => ?_, fun hj hf => ?_, fun hj hf => ?_, ?_⟩
  · simp only [hj, Bool.false_eq_true, if_false]
    rfl
  · simp only [hj, hf, if_true, Bool.false_eq_true, if_false]
  · simp only [hj, hf, if_true]
  · rw [← funext (correct_specParams c)]
    rfl

/-- Settles O55: in full resolution the constant is `SCALE_FULL`, which is the spec's `SCALE_G2`. -/
theorem fullResolutionIgnoresRange : Obligations.FullResolutionIgnoresRange := by
  unfold Obligations.FullResolutionIgnoresRange
  refine ⟨fun p c c' v hc hc' => ?_, fun c c' v hc hc' hrange => ?_⟩
  · simp [scale, scaleConst, hc, hc']
  · have hconst : specParams.scaleFull = specParams.scaleG2 := rfl
    simp [scale, scaleConst, hc, hc', hrange, hconst]

/-! ## The product -/

/-- The product is the count times 4187593, in units of `2 ^ (e - 30)`, rounded once. -/
theorem scale_specParams (c : CfgWord) (v : I16) : scale specParams c v =
    f32Of v.msb (round32 (v.toInt.natAbs * 4187593 * 2 ^ scaleExp c) (2 ^ 30)) := by
  obtain ⟨-, -, hk⟩ := scaleConst_specParams c
  have hnum : v.toInt.natAbs * (4187593 * 2 ^ 119 * 2 ^ scaleExp c) =
      v.toInt.natAbs * 4187593 * 2 ^ scaleExp c * 2 ^ 119 := by ring
  have hden : 2 ^ 149 = 2 ^ 30 * 2 ^ 119 := by rw [← pow_add]
  have hmul : scale specParams c v = mulF32Rne v (scaleConst specParams c) := rfl
  rw [hmul, mulF32Rne_eq, hk, f32Mag_f32Of (scaleMag_le_inf32 (scaleExp_le c)), units32_scaleMag, hnum, hden,
    round32_mul_right (Nat.two_pow_pos 119)]

section
variable {n e : Nat} (hpos : 0 < n) (hle : n ≤ 2 ^ 15) (he : e ≤ 3)

include hpos in
/-- No product of a count but 0 is smaller than the smallest constant. -/
theorem scaleMag_zero_le_round32 : scaleMag 0 ≤ round32 (n * 4187593 * 2 ^ e) (2 ^ 30) := by
  refine le_round32 (by decide) (by decide) ?_
  rw [units32_scaleMag]
  calc 4187593 * 2 ^ 119 * 2 ^ 0 * 2 ^ 30 = 1 * (4187593 * 2 ^ 149) := by norm_num
    _ ≤ n * 2 ^ e * (4187593 * 2 ^ 149) := Nat.mul_le_mul_right _ (Nat.mul_pos hpos (Nat.two_pow_pos e))
    _ = n * 4187593 * 2 ^ e * 2 ^ 149 := by ring

include hle he in
theorem product_le : n * 4187593 * 2 ^ e ≤ 4187593 * 2 ^ 18 := by
  calc n * 4187593 * 2 ^ e ≤ 2 ^ 15 * 4187593 * 2 ^ 3 :=
        Nat.mul_le_mul (Nat.mul_le_mul_right _ hle) (Nat.pow_le_pow_right (by decide) he)
    _ = 4187593 * 2 ^ 18 := by norm_num

include hle he in
/-- The largest product is -32768 at G16. -/
theorem round32_le_scaleMag : round32 (n * 4187593 * 2 ^ e) (2 ^ 30) ≤ scaleMag 18 := by
  refine round32_le (by decide) ?_
  rw [units32_scaleMag]
  exact (Nat.mul_le_mul_right _ (product_le hle he)).trans (by norm_num)

include hpos hle he in
/-- The range is in the exponent field. -/
theorem round32_product : round32 (n * 4187593 * 2 ^ e) (2 ^ 30) = round32 (n * 4187593) (2 ^ 30) + e * 2 ^ 23 := by
  refine round32_mul_two_pow (by decide) ?_ ((product_le hle he).trans (by norm_num))
  have : 4187593 * 2 ^ 149 ≤ n * 4187593 * 2 ^ 149 := Nat.mul_le_mul_right _ (by omega)
  exact le_trans (by norm_num) this

end

theorem natAbs_toInt_pos {v : I16} (h : v ≠ 0) : 0 < v.toInt.natAbs :=
  Int.natAbs_pos.2 fun hzero => h (BitVec.toInt_inj.1 hzero)

/-- Settles O51: the bounds are the values of two patterns. -/
theorem productsStayNormal : Obligations.ProductsStayNormal := by
  unfold Obligations.ProductsStayNormal
  refine ⟨fun c v h => ?_, by decide +kernel, by decide +kernel⟩
  rw [scale_specParams, f32Mag_f32Of_round32]
  exact ⟨scaleMag_zero_le_round32 (natAbs_toInt_pos h), round32_le_scaleMag (natAbs_toInt_le v) (scaleExp_le c)⟩

/-- Settles O54: the exponent of the constant is added to that of the product. -/
theorem rangeScalingIsExact : Obligations.RangeScalingIsExact := by
  unfold Obligations.RangeScalingIsExact
  intro r v h
  have hr : scaleExp (0#4 ++ r) = r.toNat := by
    revert r
    decide
  have hprod := round32_product (natAbs_toInt_pos h) (natAbs_toInt_le v) (by omega : r.toNat ≤ 3)
  have hfin := round32_le_inf32 (v.toInt.natAbs * 4187593 * 2 ^ r.toNat) (2 ^ 30)
  rw [hprod, inf32] at hfin
  rw [scale_specParams, scale_specParams, hr, hprod, show scaleExp 0 = 0 from rfl, pow_zero, Nat.mul_one]
  exact f32Of_add _ (by omega)

/-! ## The distance from the decimal product -/

/-- `SCALE` as a rational, at every count. -/
theorem f32Value_scale (c : CfgWord) (v : I16) : f32Value (scale specParams c v) = (if v.msb then -1 else 1) *
    ((units32 (round32 (v.toInt.natAbs * 4187593) (2 ^ 30)) : ℚ) / 2 ^ 149) * 2 ^ scaleExp c := by
  have hunits : units32 (round32 (v.toInt.natAbs * 4187593 * 2 ^ scaleExp c) (2 ^ 30)) =
      units32 (round32 (v.toInt.natAbs * 4187593) (2 ^ 30)) * 2 ^ scaleExp c := by
    obtain hzero | hpos := Nat.eq_zero_or_pos v.toInt.natAbs
    · have h0 : units32 0 = 0 := by decide
      simp only [hzero, Nat.zero_mul, round32_zero (Nat.two_pow_pos 30), h0]
    · have hnormal : scaleMag 0 ≤ _ := scaleMag_zero_le_round32 (e := 0) hpos
      rw [pow_zero, Nat.mul_one] at hnormal
      rw [round32_product hpos (natAbs_toInt_le v) (scaleExp_le c)]
      exact unitsMag_add_exponent (le_trans (by decide) hnormal) _
  rw [scale_specParams, f32Value_f32Of (round32_le_inf32 _ _), hunits]
  push_cast
  ring

/-- Whatever finite pattern is given, the value of the rounding is at least as near. -/
theorem round32_dist_le {num den b : Nat} (hden : 0 < den) (hfin : round32 num den < inf32) (hb : b < inf32) :
    |(units32 (round32 num den) : ℚ) / 2 ^ 149 - (num : ℚ) / den| ≤ |(units32 b : ℚ) / 2 ^ 149 - (num : ℚ) / den| := by
  have hscale (y x : ℚ) : |y / 2 ^ 149 - x| = |y - x * 2 ^ 149| / 2 ^ 149 := by
    have hpos : (0 : ℚ) < 2 ^ 149 := by positivity
    rw [div_sub' hpos.ne', mul_comm, abs_div, abs_of_pos hpos]
  obtain rfl | hne := eq_or_ne b (round32 num den)
  · exact le_rfl
  · rw [hscale, hscale]
    exact div_le_div_of_nonneg_right (roundingIsNearestEven num den hden hfin b hb hne).1 (by positivity)

/-- The greatest counts, by how far their products are from a multiple of 8192. -/
theorem product_near_multiple_top : ∀ i < 204,
    (32565 + i) * 4187593 % 8192 * 10 ^ 4 + 1136 * (32565 + i) ≤ 77953656 ∨
    (8192 - (32565 + i) * 4187593 % 8192) * 10 ^ 4 + 1136 * (32565 + i) ≤ 77953656 := by
  decide +kernel

/-- The product has a multiple of 8192 so near that the distance, in units of `2 ^ -30`, together with the distance
0.1136 * `n` of the product from the decimal one, stays below 7.26e-6. At most 4096 is enough but for the greatest
counts. -/
theorem exists_near_multiple {n : Nat} (hle : n ≤ 2 ^ 15) :
    ∃ j : Nat, j ≤ 2 ^ 24 ∧ |(8192 * j : Int) - n * 4187593| * 10 ^ 4 + 1136 * n ≤ 77953656 := by
  have hnear : n * 4187593 % 8192 * 10 ^ 4 + 1136 * n ≤ 77953656 ∨
      (8192 - n * 4187593 % 8192) * 10 ^ 4 + 1136 * n ≤ 77953656 := by
    obtain hlow | htop := Nat.lt_or_ge n 32565
    · omega
    · obtain ⟨i, rfl⟩ := Nat.exists_eq_add_of_le htop
      exact product_near_multiple_top i (by omega)
  obtain h | h := hnear
  · refine ⟨n * 4187593 / 8192, by omega, ?_⟩
    rw [abs_of_nonpos (by omega)]
    omega
  · refine ⟨n * 4187593 / 8192 + 1, by omega, ?_⟩
    rw [abs_of_nonneg (by omega)]
    omega

/-- The distance from the decimal product is at most that from the exact product `n * 4187593 / 2 ^ 30`, and that of
the exact product from the decimal one. -/
theorem abs_sub_decimal_le {y n j : ℚ} (hn : 0 ≤ n)
    (hround : |y - n * 4187593 / 2 ^ 30| ≤ |8192 * j - n * 4187593| / 2 ^ 30)
    (hnear : |8192 * j - n * 4187593| * 10 ^ 4 + 1136 * n ≤ 77953656) : |y - n * (39 / 10 ^ 4)| ≤ 726 / 10 ^ 8 := by
  calc |y - n * (39 / 10 ^ 4)| = |y - n * 4187593 / 2 ^ 30 - 1136 * n / 10 ^ 4 / 2 ^ 30| := by
        congr 1
        ring
    _ ≤ |y - n * 4187593 / 2 ^ 30| + |1136 * n / 10 ^ 4 / 2 ^ 30| := abs_sub _ _
    _ ≤ |8192 * j - n * 4187593| / 2 ^ 30 + 1136 * n / 10 ^ 4 / 2 ^ 30 :=
        add_le_add hround (abs_of_nonneg (by positivity)).le
    _ ≤ 726 / 10 ^ 8 := by linarith

/-- The distance at G2. The multiple of 8192 near the product is the value of a pattern, so the rounding is no farther
from the product. -/
theorem round32_close {n : Nat} (hle : n ≤ 2 ^ 15) :
    |(units32 (round32 (n * 4187593) (2 ^ 30)) : ℚ) / 2 ^ 149 - n * (39 / 10 ^ 4)| ≤ 726 / 10 ^ 8 := by
  obtain ⟨j, hj, hnear⟩ := exists_near_multiple hle
  obtain ⟨b, hb⟩ : ∃ b, units32 b = j * 2 ^ 132 := exists_unitsMag_eq 132 (hj.trans (by norm_num))
  have hbfin : b < inf32 := units32_strictMono.lt_iff_lt.1 (by
    rw [hb, show units32 inf32 = 2 ^ 145 * 2 ^ 132 by decide +kernel]
    exact Nat.mul_lt_mul_of_pos_right (hj.trans_lt (by norm_num)) (Nat.two_pow_pos 132))
  have hfin : round32 (n * 4187593) (2 ^ 30) < inf32 := round32_lt_inf32 (by decide) (by norm_num; omega)
  have hround := round32_dist_le (by decide) hfin hbfin
  have hratio : ((n * 4187593 : Nat) : ℚ) / (2 ^ 30 : Nat) = n * 4187593 / 2 ^ 30 := by norm_num
  have hmultiple : ((j * 2 ^ 132 : Nat) : ℚ) / 2 ^ 149 - n * 4187593 / 2 ^ 30 = (8192 * j - n * 4187593) / 2 ^ 30 := by
    push_cast
    ring
  rw [hratio, hb, hmultiple, abs_div, abs_of_pos (show (0 : ℚ) < 2 ^ 30 by positivity)] at hround
  have hnear' := (Int.cast_le (R := ℚ)).2 hnear
  push_cast at hnear'
  exact abs_sub_decimal_le n.cast_nonneg hround hnear'

/-- Settles O56: the sign and the range factor out of the distance. -/
theorem scaleIsCloseToTheDecimalProduct : Obligations.ScaleIsCloseToTheDecimalProduct := by
  unfold Obligations.ScaleIsCloseToTheDecimalProduct
  intro c v
  have hclose := round32_close (natAbs_toInt_le v)
  have hdist : |f32Value (scale specParams c v) - v.toInt * decimalValue (scaleConst specParams c)| ≤
      726 / 10 ^ 8 * 2 ^ scaleExp c := by
    rw [f32Value_scale, decimalValue_scaleConst, toInt_eq_sign_mul_natAbs]
    generalize hs : (if v.msb then -1 else 1 : ℚ) = sign
    have habs : |sign| = 1 := by
      rw [← hs]
      split <;> simp
    calc _ = |sign * ((units32 (round32 (v.toInt.natAbs * 4187593) (2 ^ 30)) : ℚ) / 2 ^ 149 -
              v.toInt.natAbs * (39 / 10 ^ 4)) * 2 ^ scaleExp c| := by congr 1; ring
      _ ≤ _ := by
        rw [abs_mul, abs_mul, habs, one_mul, abs_of_pos (show (0 : ℚ) < 2 ^ scaleExp c by positivity)]
        exact mul_le_mul_of_nonneg_right hclose (by positivity)
  refine ⟨hdist, hdist.trans ?_⟩
  have hexp : (2 : ℚ) ^ scaleExp c ≤ 2 ^ 3 := pow_le_pow_right₀ (by norm_num) (scaleExp_le c)
  linarith

end Sys2Proof.Machine
end

section
/-! `DISPATCH` and its events (R161 to R168). The events of a byte are its set bits from the highest down, and the
priority encoder gives the first of them; a `DISPATCH` passes as many of them, in that order, as the sink takes. -/

namespace Sys2Proof.Machine

/-! ## The events of a byte -/

section
variable {b : Byte} {k : BitVec 3}

theorem mem_eventsOf : k ∈ eventsOf b ↔ b.getLsbD k.toNat = true := by
  have hk : k ∈ [7, 6, 5, 4, 3, 2, 1, 0] := by
    revert k
    decide
  rw [eventsOf, List.mem_filter]
  exact and_iff_right hk

theorem eventsOf_pairwise (b : Byte) : (eventsOf b).Pairwise fun j k => k.toNat < j.toNat :=
  List.Pairwise.filter _ (by decide)

theorem eventsOf_eq_nil : eventsOf b = [] ↔ b = 0 := by
  constructor
  · intro h
    refine BitVec.eq_of_getLsbD_eq fun j hj => ?_
    have hmem : BitVec.ofNat 3 j ∉ eventsOf b := by simp [h]
    rw [mem_eventsOf, BitVec.toNat_ofNat, Nat.mod_eq_of_lt hj] at hmem
    simpa using hmem
  · rintro rfl
    decide

/-- The priority encoder finds the first event of the plain scan (R164). -/
theorem head?_eventsOf (b : Byte) : (eventsOf b).head? = highestBit b := by
  have hcons (p : BitVec 3 → Bool) (k : BitVec 3) (l) : (k :: l).find? p = if p k then some k else l.find? p := by
    cases h : p k <;> simp [h]
  rw [eventsOf, List.head?_filter]
  simp only [hcons]
  rfl

/-- No bit above the one the priority encoder gives is set, since every event after the first is lower. -/
theorem getLsbD_of_highestBit_lt (h : highestBit b = some k) {j : Nat} (hj : k.toNat < j) : b.getLsbD j = false := by
  by_contra hset
  rw [Bool.not_eq_false] at hset
  have hlt : j < 8 := BitVec.lt_of_getLsbD hset
  have hmem : BitVec.ofNat 3 j ∈ eventsOf b := by
    rwa [mem_eventsOf, BitVec.toNat_ofNat, Nat.mod_eq_of_lt hlt]
  have hpairwise := eventsOf_pairwise b
  rw [eventsOf_of_highestBit_some b k h] at hmem hpairwise
  obtain rfl | htail := List.mem_cons.mp hmem
  · simp [Nat.mod_eq_of_lt hlt] at hj
  · have hlower := List.rel_of_pairwise_cons hpairwise htail
    rw [BitVec.toNat_ofNat, Nat.mod_eq_of_lt hlt] at hlower
    omega

end

/-- Settles O60: the encoder's bit is the head of the plain scan. -/
theorem encoderGivesTheHighestBit : Obligations.EncoderGivesTheHighestBit := by
  unfold Obligations.EncoderGivesTheHighestBit
  intro b
  refine ⟨?_, fun k h => ⟨?_, fun j => getLsbD_of_highestBit_lt h⟩, eventsOf_of_highestBit_none b,
    eventsOf_of_highestBit_some b⟩
  · rw [← head?_eventsOf, List.head?_eq_none_iff, eventsOf_eq_nil]
  · rw [← mem_eventsOf, eventsOf_of_highestBit_some b k h]
    exact List.mem_cons_self

/-! ## The operation -/

section
variable {s : State} {b : Byte} {as : List Answer}

/-- A `DISPATCH` that waits for its byte has passed its request. -/
theorem PassedSince.askIntSource (h : Handle) (s : State) :
    PassedSince s [.request (reqIntSource s.par)] (askIntSource (acceptDispatch h s)) :=
  ⟨rfl, rfl, rfl, rfl, rfl, rfl⟩

/-- The state of a `DISPATCH` that has read its byte. -/
def afterIntSource (h : Handle) (bs : List Byte) (as : List Answer) (s : State) : State :=
  gotIntSource bs ((askIntSource (acceptDispatch h s)).setAnswers as)

@[simp] theorem afterIntSource_pend (h : Handle) (bs : List Byte) (as : List Answer) (s : State) :
    (afterIntSource h bs as s).regs.pend = firstByte bs := rfl

@[simp] theorem afterIntSource_answers (h : Handle) (bs : List Byte) (as : List Answer) (s : State) :
    (afterIntSource h bs as s).answers = as := rfl

@[simp] theorem afterIntSource_takes (h : Handle) (bs : List Byte) (as : List Answer) (s : State) :
    (afterIntSource h bs as s).takes = s.takes := rfl

/-- The read passes nothing more. -/
theorem PassedSince.afterIntSource (h : Handle) (bs : List Byte) (as : List Answer) (s : State) :
    PassedSince s [.request (reqIntSource s.par)] (afterIntSource h bs as s) :=
  ⟨rfl, rfl, rfl, rfl, rfl, rfl⟩

theorem exec_dispatch (h : Handle) (s : State) : exec (.dispatch h) s = execDispatch h s := rfl

/-- `DISPATCH` with a good handle passes its checks (R184). -/
theorem execDispatch_of_good (s : State) :
    execDispatch ⟨true, true⟩ s = onAnswer 1 (askIntSource (acceptDispatch ⟨true, true⟩ s)) fun bs s =>
      .next (emitPending 9 (gotIntSource bs s)) :=
  checked_of_checkFailure_none (checkFailure_eq_none.mpr ⟨rfl, rfl, fun h => by cases h⟩) _

/-- With its read answered `DISPATCH` is the event loop (R161). -/
theorem execDispatch_of_answer (ha : s.answers = .ok [b] :: as) :
    execDispatch ⟨true, true⟩ s = .next (emitPending 9 (afterIntSource ⟨true, true⟩ [b] as s)) :=
  (execDispatch_of_good s).trans (onAnswer_ok (s := askIntSource _) ha rfl)

/-- A failed read ends `DISPATCH` before any event (R168). -/
theorem execDispatch_of_fail (ha : s.answers = .fail :: as) :
    execDispatch ⟨true, true⟩ s =
      .next (ended s [.request (reqIntSource s.par), errorItem .transportError] as s.takes) :=
  (execDispatch_of_good s).trans ((PassedSince.askIntSource ..).onAnswer_fail ha)

end

/-- Settles O57: the event loop with enough takes, and the failed read. -/
theorem dispatchDeliversAllOrNothing : Obligations.DispatchDeliversAllOrNothing := by
  unfold Obligations.DispatchDeliversAllOrNothing
  refine fun s as => ⟨fun b ha htakes => ?_, execDispatch_of_fail⟩
  rw [exec_dispatch, execDispatch_of_answer ha,
    emitPending_all 9 (afterIntSource ⟨true, true⟩ [b] as s) (eventsOf_length_lt _) htakes,
    (PassedSince.afterIntSource ..).ended_eq]
  simp [firstByte]

/-- A presented event stays while the sink takes none (R165). -/
theorem step_of_emit_not_taken {s : State} (hrst : s.rst = false) (hphase : s.phase = .emit) (ht : s.takes = 0) :
    step s = .next s := by
  rw [step_of_busy hrst (by simp [hphase])]
  exact settle_of_waiting (by simp [State.waiting, hphase, ht])

/-- Settles O58: the event loop with too few takes stops at the event after the last one taken. -/
theorem dispatchWaitsForTheSink : Obligations.DispatchWaitsForTheSink := by
  unfold Obligations.DispatchWaitsForTheSink
  intro s b as ha htakes
  obtain ⟨r, hloop, hk, hpend⟩ :=
    emitPending_some 9 (afterIntSource ⟨true, true⟩ [b] as s) (eventsOf_length_lt b) htakes
  rw [exec_dispatch, execDispatch_of_answer ha, hloop]
  refine ⟨_, rfl, rfl, rfl, rfl, hk, rfl, hpend, ?_, fun hrst => step_of_emit_not_taken hrst rfl rfl⟩
  rw [(PassedSince.afterIntSource ..).trace, List.append_assoc]
  rfl

/-! ## The events of an operation -/

@[simp] theorem eventsIn_map_event (l : List (BitVec 3)) : eventsIn (l.map .event) = l := by
  induction l with
  | nil => rfl
  | cons k l ih => rw [List.map_cons, eventsIn_event, ih]

/-- The event loop passes a beginning of the pending events (R166). -/
theorem emitPending_trace (s : State) :
    ∃ l, (emitPending 9 s).trace = s.trace ++ l ∧ eventsIn l <+: eventsOf s.regs.pend := by
  obtain ht | ht := Nat.lt_or_ge s.takes (eventsOf s.regs.pend).length
  · obtain ⟨r, hloop, -⟩ := emitPending_some 9 s (eventsOf_length_lt _) ht
    exact ⟨_, by rw [hloop], by rw [eventsIn_map_event]; exact List.take_prefix ..⟩
  · exact ⟨_, by rw [emitPending_all 9 s (eventsOf_length_lt _) ht, ended_trace], by simp⟩

/-- A `DISPATCH` passes a beginning of the events of the byte read, and none if no byte is read (R166, R168). -/
theorem eventsIn_execDispatch {s t : State} {h : Handle} (ht : execDispatch h s = .next t) :
    eventsIn (passed s t) = [] ∨
      ∃ bs as, s.answers = .ok bs :: as ∧ eventsIn (passed s t) <+: eventsOf (firstByte bs) := by
  rw [execDispatch] at ht
  obtain ⟨e, -, hs⟩ | ⟨-, hs⟩ := checked_cases (acceptDispatch h s) _ <;> rw [hs] at ht
  · cases ht
    rw [passed_of_append (l := [errorItem e]) rfl]
    exact .inl rfl
  have hasked := PassedSince.askIntSource h s
  obtain ⟨-, hs⟩ | ⟨as, -, hs⟩ | ⟨bs, as, ha, -, hs⟩ | ⟨bs, as, -, -, hs⟩ :=
    onAnswer_cases 1 (askIntSource (acceptDispatch h s)) _ <;> rw [hs] at ht <;> cases ht
  · rw [passed_of_append hasked.trace]
    exact .inl rfl
  · rw [passed_of_append (l := [.request (reqIntSource s.par), errorItem .transportError])
      (by rw [raise_eq_ended, ended_trace, State.setAnswers_trace, hasked.trace, List.append_assoc]; rfl)]
    exact .inl rfl
  · have hread := PassedSince.afterIntSource h bs as s
    obtain ⟨l, htrace, hl⟩ := emitPending_trace (afterIntSource h bs as s)
    rw [hread.trace, List.append_assoc] at htrace
    refine .inr ⟨bs, as, ha, ?_⟩
    rw [← afterIntSource, passed_of_append htrace]
    simpa using hl

/-- Settles O59: a beginning of the events of the byte descends as they do and has no others. -/
theorem eventsDescend : Obligations.EventsDescend := by
  unfold Obligations.EventsDescend
  intro s t h ht
  rw [exec_dispatch] at ht
  obtain hnone | ⟨bs, as, ha, hprefix⟩ := eventsIn_execDispatch ht
  · simp [hnone]
  · refine ⟨(eventsOf_pairwise _).sublist hprefix.sublist, fun bs' as' ha' k hk => ?_⟩
    rw [ha] at ha'
    cases ha'
    exact mem_eventsOf.mp (hprefix.subset hk)

end Sys2Proof.Machine
end

section
/-! The argument checks (R182 to R185, R120): a command whose arguments a check refuses ends at once with that check's
error, and past the checks an operation ends with `OK` or `TransportError` only. `CompletesWith b P o` says of an
outcome that every completion since `b` has a status that meets `P`; each piece of the four operations has one rule. -/

namespace Sys2Proof.Machine

variable {b s : State} {P : Status → Prop}

/-! ## A check that fails -/

/-- A failed check ends `READ`, whatever the transport would answer (R184). -/
theorem execRead_of_checkFailure {h : Handle} {len : BitVec 16} {e : ErrorKind}
    (hcheck : checkFailure (acceptRead h len s).regs = some e) :
    execRead h len s = .next (ended s [errorItem e] s.answers s.takes) :=
  checked_of_checkFailure_some hcheck _

/-- A failed check ends `DISPATCH`, whatever the transport would answer (R184). -/
theorem execDispatch_of_checkFailure {h : Handle} {e : ErrorKind}
    (hcheck : checkFailure (acceptDispatch h s).regs = some e) :
    execDispatch h s = .next (ended s [errorItem e] s.answers s.takes) :=
  checked_of_checkFailure_some hcheck _

/-! ## The status of the completion -/

/-- If the outcome is a next state, every completion that has passed since `b` has a status that meets `P`. -/
def CompletesWith (b : State) (P : Status → Prop) (o : Out) : Prop :=
  ∀ t, o = .next t → ∃ items, t.trace = b.trace ++ items ∧ ∀ c ∈ completionsIn items, P c.status

/-- No completion has passed yet. -/
theorem Running.completesWith (h : Running b s) : CompletesWith b P (.next s) := by
  rintro _ ⟨⟩
  obtain ⟨items, htrace, hitems⟩ := h.trace
  exact ⟨items, htrace, by simp [hitems]⟩

theorem completesWith_finish (h : Running b s) {v : Status} (hv : P v) (n : Option (BitVec 6)) (c : Option CfgWord)
    (rs : List Record) : CompletesWith b P (.next (finish v n c rs s)) := by
  rintro _ ⟨⟩
  obtain ⟨items, htrace, hitems⟩ := h.trace
  refine ⟨items ++ [.completion ⟨v, n, c, rs⟩], ?_, ?_⟩
  · rw [finish_eq_ended, ended_trace, htrace, List.append_assoc]
  · simpa [hitems] using hv

/-- The checks end the operation with what they find, or let it go on (R184). -/
theorem completesWith_checked {k : State → Out} (h : Running b s)
    (he : ∀ e, checkFailure s.regs = some e → P e.status) (hk : CompletesWith b P (k s)) :
    CompletesWith b P (checked s k) := by
  obtain ⟨e, hcheck, hs⟩ | ⟨-, hs⟩ := checked_cases s k
  · rw [hs]
    exact completesWith_finish h (he e hcheck) _ _ _
  · rw [hs]
    exact hk

/-! ## Past the checks -/

section
variable (hok : P .ok) (hfail : P .transportError)

include hfail in
/-- A failed answer is the one error past the checks (R66, R181). -/
theorem completesWith_onAnswer {n : Nat} {k : List Byte → State → Out} (h : Running b s)
    (hk : ∀ bs as, Running b (s.setAnswers as) → CompletesWith b P (k bs (s.setAnswers as))) :
    CompletesWith b P (onAnswer n s k) := by
  have hrest (as : List Answer) : Running b (s.setAnswers as) := h.write rfl rfl h.busy
  obtain ⟨-, hs⟩ | ⟨as, -, hs⟩ | ⟨bs, as, -, -, hs⟩ | ⟨bs, as, -, -, hs⟩ := onAnswer_cases n s k
  · rw [hs]
    exact h.completesWith
  · rw [hs]
    exact completesWith_finish (hrest as) hfail _ _ _
  · rw [hs]
    exact hk bs as (hrest as)
  · rw [hs]
    exact fun _ h => nomatch h

include hfail in
/-- The resolver sequence, in either order (R102, D7). -/
theorem completesWith_resolveSeq {k : State → Out} (h : Running b s)
    (hk : ∀ t, Running b t → CompletesWith b P (k t)) : CompletesWith b P (resolveSeq s k) := by
  unfold resolveSeq
  cases s.par.order with
  | ctlFirst =>
    refine completesWith_onAnswer hfail (h.ask .res0 _ (by decide)) fun c as h => ?_
    refine completesWith_onAnswer hfail ((h.setCfg _).ask .res1 _ (by decide)) fun f as h => ?_
    exact hk _ (h.setCfg _)
  | fmtFirst =>
    refine completesWith_onAnswer hfail (h.ask .res1 _ (by decide)) fun f as h => ?_
    refine completesWith_onAnswer hfail ((h.setCfg _).ask .res0 _ (by decide)) fun c as h => ?_
    exact hk _ (h.setCfg _)

include hok in
/-- The event loop completes with `OK`, or waits for the sink (R161). -/
theorem completesWith_emitPending (n : Nat) (h : Running b s) : CompletesWith b P (.next (emitPending n s)) := by
  induction n generalizing s with
  | zero => exact h.completesWith
  | succ n ih =>
    cases hk : highestBit s.regs.pend with
    | none =>
      rw [emitPending_none hk]
      exact completesWith_finish h hok _ _ _
    | some k =>
      have hpresent : Running b (present k s) := h.write rfl rfl (by simp)
      by_cases htakes : s.takes = 0
      · rw [emitPending_hold hk htakes]
        exact hpresent.completesWith
      · rw [emitPending_take hk htakes]
        exact ih (hpresent.pass (.event k) rfl rfl rfl (by simp))

include hok hfail

/-- The burst and its decode (R116, R117). -/
theorem completesWith_readBurst (h : Running b s) : CompletesWith b P (readBurst s) := by
  refine completesWith_onAnswer hfail (h.ask .burst _ (by decide)) fun bs as h => ?_
  have hburst : Running b (gotBurst bs ((askBurst s).setAnswers as)) := h.write rfl rfl (by simp)
  exact completesWith_finish (hburst.decodeRecords _) hok _ _ _

/-- What `READ` does after the resolver sequence (R112 to R115). -/
theorem completesWith_readSamples (h : Running b s) : CompletesWith b P (readSamples s) := by
  unfold readSamples
  split
  next => exact completesWith_readBurst hok hfail (h.write rfl rfl h.busy)
  next =>
    refine completesWith_onAnswer hfail (h.ask .stat _ (by decide)) fun bs as h => ?_
    have hcount : Running b (gotFifoStatus bs ((askFifoStatus s).setAnswers as)) := h.write rfl rfl h.busy
    simp only
    split
    next => exact completesWith_finish hcount hok _ _ _
    next => exact completesWith_readBurst hok hfail hcount

end

/-! ## The operations -/

/-- The commands that may end with each of the three argument errors (R182, R183, R185). -/
def ArgumentErrorRule (i : Instr) (v : Status) : Prop :=
  (v = .nullHandle →
    ∃ hi, i = .resolve ⟨false, hi⟩ ∨ (∃ len, i = .read ⟨false, hi⟩ len) ∨ i = .dispatch ⟨false, hi⟩) ∧
  (v = .notInitialized →
    i = .resolve ⟨true, false⟩ ∨ (∃ len, i = .read ⟨true, false⟩ len) ∨ i = .dispatch ⟨true, false⟩) ∧
  (v = .lengthZero → i = .read ⟨true, true⟩ 0)

theorem argumentErrorRule_ok (i : Instr) : ArgumentErrorRule i .ok := ⟨nofun, nofun, nofun⟩

theorem argumentErrorRule_transportError (i : Instr) : ArgumentErrorRule i .transportError := ⟨nofun, nofun, nofun⟩

/-- What the checks find is in the arguments of the command, which for `DECODE` are not checked (R131). -/
theorem argumentErrorRule_of_checkFailure {i : Instr} {e : ErrorKind} (hi : ∀ cfg opb, i ≠ .decode cfg opb)
    (h : checkFailure (accept i s).regs = some e) : ArgumentErrorRule i e.status := by
  match i with
  | .resolve ⟨false, hi⟩ | .read ⟨false, hi⟩ _ | .dispatch ⟨false, hi⟩ =>
    obtain rfl : .nullHandle = e := Option.some.inj h
    exact ⟨fun _ => ⟨hi, by simp⟩, nofun, nofun⟩
  | .resolve ⟨true, false⟩ | .read ⟨true, false⟩ _ | .dispatch ⟨true, false⟩ =>
    obtain rfl : .notInitialized = e := Option.some.inj h
    exact ⟨nofun, fun _ => by simp, nofun⟩
  | .read ⟨true, true⟩ len =>
    obtain rfl : len = 0 := by
      by_contra hlen
      rw [checkFailure_eq_none.mpr ⟨rfl, rfl, fun _ => hlen⟩] at h
      cases h
    obtain rfl : .lengthZero = e := Option.some.inj h
    exact ⟨nofun, nofun, fun _ => rfl⟩
  | .resolve ⟨true, true⟩ | .dispatch ⟨true, true⟩ =>
    rw [checkFailure_eq_none.mpr ⟨rfl, rfl, fun hread => by cases hread⟩] at h
    cases h
  | .decode cfg opb => exact absurd rfl (hi cfg opb)

/-- The argument errors of a command are those of its own arguments (R184). -/
theorem completesWith_exec (i : Instr) (s : State) :
    CompletesWith (accept i s) (ArgumentErrorRule i) (exec i s) := by
  have hok := argumentErrorRule_ok i
  have hfail := argumentErrorRule_transportError i
  have hstart : (accept i s).phase ≠ .idle → Running (accept i s) (accept i s) := .start
  have hcheck (hi : ∀ cfg opb, i ≠ .decode cfg opb) (e : ErrorKind) (he : checkFailure (accept i s).regs = some e) :
      ArgumentErrorRule i e.status := argumentErrorRule_of_checkFailure hi he
  cases i with
  | resolve h =>
    rw [exec, execResolve]
    refine completesWith_checked (hstart nofun) (hcheck nofun) ?_
    exact completesWith_resolveSeq hfail (hstart nofun) fun t h => completesWith_finish h hok _ _ _
  | read h len =>
    rw [exec, execRead]
    refine completesWith_checked (hstart nofun) (hcheck nofun) ?_
    exact completesWith_resolveSeq hfail (hstart nofun) fun t => completesWith_readSamples hok hfail
  | decode opcfg opb =>
    rw [exec, execDecode, decodeOperand_eq_ended, ← finish_eq_ended]
    exact completesWith_finish (hstart nofun) hok _ _ _
  | dispatch h =>
    rw [exec, execDispatch]
    refine completesWith_checked (hstart nofun) (hcheck nofun) ?_
    refine completesWith_onAnswer hfail ((hstart nofun).ask .srcrd _ (by decide)) fun bs as h => ?_
    exact completesWith_emitPending hok 9 (h.write rfl rfl (by simp))

/-- Settles O27: each check by its own arguments, and past the checks no argument error is raised. -/
theorem argumentsAreCheckedFirst : Obligations.ArgumentsAreCheckedFirst := by
  unfold Obligations.ArgumentsAreCheckedFirst
  refine ⟨fun s len hi => ?_, rfl, rfl, rfl, fun i s t ht c hc => ?_⟩
  · exact ⟨execResolve_of_checkFailure rfl, execRead_of_checkFailure rfl, execDispatch_of_checkFailure rfl,
      execResolve_of_checkFailure rfl, execRead_of_checkFailure rfl, execDispatch_of_checkFailure rfl,
      execRead_of_checkFailure rfl⟩
  · obtain ⟨items, htrace, hitems⟩ := completesWith_exec i s t ht
    rw [accept_trace] at htrace
    rw [passed_of_append htrace] at hc
    exact hitems c hc

end Sys2Proof.Machine
end

section
/-! How an operation comes to rest (70_reset_and_hazards.md). Every transition of a block that does not wait brings it
nearer to its end or its next wait, or meets an answer of the wrong length; one pass over the rows of the tables shows
both. From there a step ends idle or waiting, and is refused for such an answer alone. -/

namespace Sys2Proof.Machine

variable {s t : State} {as : List Answer} {n : Nat}

/-! ## Reset -/

/-- Settles O19: reset comes before the phase is looked at. -/
theorem resetAbandonsTheOperation : Obligations.ResetAbandonsTheOperation := by
  unfold Obligations.ResetAbandonsTheOperation
  intro s hrst
  have hstep := step_of_rst hrst
  refine ⟨hstep, (tick_of_rst hrst).trans hstep.symm, fun t ht => ?_⟩
  rw [hstep] at ht
  cases ht
  exact ⟨rfl, rfl, rfl⟩

/-! ## The transitions that are left -/

/-- A bound on the transitions the operation in progress can still make, by the tables R121 and R169: the two resolver
reads in their order (D7), one for each of at most 63 records, a scan and an event for each pending event. -/
def State.transitionsLeft (s : State) : Nat :=
  match s.phase with
  | .idle => 0
  | .chk => 69
  | .res0 => match s.par.order with | .ctlFirst => 68 | .fmtFirst => 67
  | .res1 => match s.par.order with | .ctlFirst => 67 | .fmtFirst => 68
  | .stat => 66
  | .burst => 65
  | .dec => 64 - s.regs.idx.toNat
  | .srcrd => 18
  | .scan => 2 * (eventsOf s.regs.pend).length + 1
  | .emit => 2 * (eventsOf (clearBit s.regs.pend s.regs.k)).length + 2

theorem transitionsLeft_le (s : State) : s.transitionsLeft ≤ settleBound := by
  have hscan := eventsOf_length_lt s.regs.pend
  have hemit := eventsOf_length_lt (clearBit s.regs.pend s.regs.k)
  unfold State.transitionsLeft settleBound
  cases s.phase <;> cases s.par.order <;> simp only <;> omega

theorem transitionsLeft_pos (h : s.waiting = false) : 0 < s.transitionsLeft := by
  have hidx := s.regs.idx.isLt
  unfold State.waiting at h
  unfold State.transitionsLeft
  cases hphase : s.phase <;> cases s.par.order <;> simp [hphase] at h ⊢ <;> omega

/-- The refusal is that of an `ok` answer in `as` of another length than asked (R223; assumption 9). -/
def MalformedIn (as : List Answer) (r : Refusal) : Prop :=
  ∃ asked bs, r = .answerLength asked bs.length ∧ .ok bs ∈ as ∧ bs.length ≠ asked

/-- A transition leaves fewer than `n` others to make, has no row, or is refused an answer of `as`. -/
def Advances (n : Nat) (as : List Answer) : Out → Prop
  | .next t => t.transitionsLeft < n
  | .fault _ => True
  | .refused r => MalformedIn as r

theorem advances_finish (hn : 0 < n) (v : Status) (a : Option (BitVec 6)) (c : Option CfgWord) (rs : List Record)
    (s : State) : Advances n as (.next (finish v a c rs s)) := hn

theorem advances_checked {k : State → Out} (hn : 0 < n) (hk : Advances n as (k s)) : Advances n as (checked s k) := by
  obtain ⟨e, -, hs⟩ | ⟨-, hs⟩ := checked_cases s k
  · rw [hs]
    exact advances_finish hn _ _ _ _ _
  · rw [hs]
    exact hk

/-- An answer that has come ends the operation, moves it on, or is refused (R66, R223). -/
theorem advances_onAnswer {asked : Nat} {k : List Byte → State → Out} (hn : 0 < n) (ha : s.answers.isEmpty = false)
    (hk : ∀ bs rest, Advances n s.answers (k bs (s.setAnswers rest))) :
    Advances n s.answers (onAnswer asked s k) := by
  obtain ⟨hnil, -⟩ | ⟨rest, -, hs⟩ | ⟨bs, rest, -, -, hs⟩ | ⟨bs, rest, hok, hlen, hs⟩ := onAnswer_cases asked s k
  · simp [hnil] at ha
  · rw [hs]
    exact advances_finish hn _ _ _ _ _
  · rw [hs]
    exact hk bs rest
  · rw [hs]
    exact ⟨asked, bs, rfl, hok ▸ List.mem_cons_self, hlen⟩

/-! ## The rows of the tables -/

theorem advances_firstRequest (s : State) : Advances 69 as (.next (firstRequest s)) := by
  rw [firstRequest]
  cases ho : s.par.order <;> simp [Advances, State.transitionsLeft, ho]

theorem advances_tickChk (s : State) : Advances 69 as (tickChk s) := by
  unfold tickChk
  cases s.regs.op with
  | resolve => exact advances_checked (by decide) (advances_firstRequest s)
  | read => exact advances_checked (by decide) (advances_firstRequest s)
  | decode => trivial
  | dispatch =>
    have hask : Advances 69 as (.next (askIntSource s)) := show 18 < 69 by decide
    exact advances_checked (by decide) hask

/-- The rows that leave the resolver sequence go past the resolver. -/
theorem advances_resolved (p : Phase) (s : State) : Advances 67 as (resolved p s) := by
  unfold resolved
  cases s.regs.op with
  | resolve => exact advances_finish (by decide) _ _ _ _ _
  | read =>
    simp only
    split
    next => exact show 65 < 67 by decide
    next => exact show 66 < 67 by decide
  | decode => trivial
  | dispatch => trivial

section
variable (ha : s.answers.isEmpty = false)
include ha

theorem advances_tickRes0 (hphase : s.phase = .res0) : Advances s.transitionsLeft s.answers (tickRes0 s) := by
  rw [State.transitionsLeft, hphase, tickRes0]
  cases ho : s.par.order with
  | ctlFirst =>
    refine advances_onAnswer (Nat.succ_pos _) ha fun bs rest => ?_
    simp [ho, Advances, State.transitionsLeft]
  | fmtFirst =>
    refine advances_onAnswer (Nat.succ_pos _) ha fun bs rest => ?_
    simp only [State.setAnswers_par, ho]
    exact advances_resolved _ _

theorem advances_tickRes1 (hphase : s.phase = .res1) : Advances s.transitionsLeft s.answers (tickRes1 s) := by
  rw [State.transitionsLeft, hphase, tickRes1]
  cases ho : s.par.order with
  | ctlFirst =>
    refine advances_onAnswer (Nat.succ_pos _) ha fun bs rest => ?_
    simp only [State.setAnswers_par, ho]
    exact advances_resolved _ _
  | fmtFirst =>
    refine advances_onAnswer (Nat.succ_pos _) ha fun bs rest => ?_
    simp [ho, Advances, State.transitionsLeft]

theorem advances_tickStat : Advances 66 s.answers (tickStat s) := by
  unfold tickStat
  cases s.regs.op with
  | read =>
    refine advances_onAnswer (by decide) ha fun bs rest => ?_
    simp only
    split
    next => exact advances_finish (by decide) _ _ _ _ _
    next => exact show 65 < 66 by decide
  | resolve => trivial
  | decode => trivial
  | dispatch => trivial

/-- The decode begins at record 0, with at most 63 to come (R121). -/
theorem advances_tickBurst : Advances 65 s.answers (tickBurst s) := by
  unfold tickBurst
  cases s.regs.op with
  | read => exact advances_onAnswer (by decide) ha fun bs rest => show 64 < 65 by decide
  | resolve => trivial
  | decode => trivial
  | dispatch => trivial

/-- A byte has at most eight events (R166). -/
theorem advances_tickSrcrd : Advances 18 s.answers (tickSrcrd s) := by
  unfold tickSrcrd
  cases s.regs.op with
  | dispatch =>
    refine advances_onAnswer (by decide) ha fun bs rest => ?_
    have hevents := eventsOf_length_lt (firstByte bs)
    have hscan : 2 * (eventsOf (firstByte bs)).length + 1 < 18 := by omega
    exact hscan
  | resolve => trivial
  | read => trivial
  | decode => trivial

end

/-- `IDX` goes up with each record (R121). -/
theorem advances_tickDec (hphase : s.phase = .dec) : Advances (64 - s.regs.idx.toNat) as (tickDec s) := by
  have hidx := s.regs.idx.isLt
  have halen := s.regs.alen.isLt
  unfold tickDec
  cases s.regs.op with
  | decode => exact advances_finish (by omega) _ _ _ _ _
  | read =>
    simp only
    split_ifs with hmore
    · have hnext := idx_add_one_toNat (idx := s.regs.idx) (alen := s.regs.alen) (by omega)
      rw [Advances, State.transitionsLeft, decodeNext_phase, hphase, decodeNext_idx]
      simp only
      omega
    · exact advances_finish (by omega) _ _ _ _ _
    · trivial
  | resolve => trivial
  | dispatch => trivial

/-- The event presented is one of those pending (R164). -/
theorem advances_tickScan (s : State) : Advances (2 * (eventsOf s.regs.pend).length + 1) as (tickScan s) := by
  unfold tickScan
  cases s.regs.op with
  | dispatch =>
    cases hk : highestBit s.regs.pend with
    | none => exact advances_finish (by omega) _ _ _ _ _
    | some k =>
      have hemit : 2 * (eventsOf (clearBit s.regs.pend k)).length + 2 < 2 * (eventsOf s.regs.pend).length + 1 := by
        rw [eventsOf_of_highestBit_some _ _ hk, List.length_cons]
        omega
      exact hemit
  | resolve => trivial
  | read => trivial
  | decode => trivial

theorem advances_tickEmit (htakes : s.takes ≠ 0) :
    Advances (2 * (eventsOf (clearBit s.regs.pend s.regs.k)).length + 2) as (tickEmit s) := by
  unfold tickEmit
  cases s.regs.op with
  | dispatch =>
    simp only
    rw [if_neg htakes]
    exact Nat.lt_succ_self _
  | resolve => trivial
  | read => trivial
  | decode => trivial

/-- Every transition of a block that does not wait, from every state. -/
theorem advances_tick (hw : s.waiting = false) : Advances s.transitionsLeft s.answers (tick s) := by
  have hpos := transitionsLeft_pos hw
  cases hrst : s.rst with
  | true =>
    rw [tick_of_rst hrst]
    exact hpos
  | false =>
    unfold State.waiting at hw
    cases hphase : s.phase with
    | idle =>
      rw [hphase] at hw
      cases hw
    | chk =>
      rw [tick_of_chk hrst hphase, State.transitionsLeft, hphase]
      exact advances_tickChk s
    | res0 =>
      rw [hphase] at hw
      exact tick_of_res0 hrst hphase ▸ advances_tickRes0 hw hphase
    | res1 =>
      rw [hphase] at hw
      exact tick_of_res1 hrst hphase ▸ advances_tickRes1 hw hphase
    | stat =>
      rw [hphase] at hw
      rw [tick_of_stat hrst hphase, State.transitionsLeft, hphase]
      exact advances_tickStat hw
    | burst =>
      rw [hphase] at hw
      rw [tick_of_burst hrst hphase, State.transitionsLeft, hphase]
      exact advances_tickBurst hw
    | dec =>
      rw [tick_of_dec hrst hphase, State.transitionsLeft, hphase]
      exact advances_tickDec hphase
    | srcrd =>
      rw [hphase] at hw
      rw [tick_of_srcrd hrst hphase, State.transitionsLeft, hphase]
      exact advances_tickSrcrd hw
    | scan =>
      rw [tick_of_scan hrst hphase, State.transitionsLeft, hphase]
      exact advances_tickScan s
    | emit =>
      rw [hphase] at hw
      rw [tick_of_emit hrst hphase, State.transitionsLeft, hphase]
      exact advances_tickEmit (by simpa using hw)

/-! ## The step -/

/-- The transitions end where the block is idle or waits, for want of a row, or refused an answer of `as`. -/
def AtRest (as : List Answer) : Out → Prop
  | .next t => t.waiting = true
  | .fault _ => True
  | .refused r => MalformedIn as r

/-- A transition only consumes answers, from the first on. -/
theorem tick_answers_suffix (ht : tick s = .next t) : t.answers <:+ s.answers := by
  obtain ⟨_, hfollows, -⟩ := reaches_tick (Follows.start s) (onlyBlockRequests_nil s.par) t ht
  exact hfollows.answers

theorem AtRest.mono {as bs : List Answer} {o : Out} (h : AtRest as o) (hsuffix : as <:+ bs) : AtRest bs o := by
  cases o with
  | next t => exact h
  | fault r => trivial
  | refused r =>
    obtain ⟨asked, bytes, hr, hmem, hlen⟩ := h
    exact ⟨asked, bytes, hr, hsuffix.subset hmem, hlen⟩

/-- As many transitions as are left are enough. -/
theorem atRest_settle (h : s.transitionsLeft ≤ n) : AtRest s.answers (settle n s) := by
  induction n generalizing s with
  | zero =>
    have hwaiting : s.waiting = true := by
      by_contra hw
      exact absurd (transitionsLeft_pos (Bool.eq_false_iff.mpr hw)) (by omega)
    exact hwaiting
  | succ n ih =>
    cases hw : s.waiting with
    | true =>
      rw [settle_of_waiting hw]
      exact hw
    | false =>
      have hadvances := advances_tick hw
      rw [settle_eq_resume hw]
      cases ht : tick s with
      | next u =>
        rw [ht] at hadvances
        have hless : u.transitionsLeft < s.transitionsLeft := hadvances
        exact (ih (s := u) (by omega)).mono (tick_answers_suffix ht)
      | fault r => trivial
      | refused r =>
        rw [ht] at hadvances
        exact hadvances

theorem accept_answers (i : Instr) (s : State) : (accept i s).answers = s.answers := by cases i <;> rfl

/-- Every step, from every state. -/
theorem atRest_step (s : State) : AtRest s.answers (step s) := by
  obtain hstep | hstep | ⟨w, rest, hstep⟩ := step_cases s
  · rw [hstep]
    exact show s.applyReset.waiting = true from rfl
  · rw [hstep]
    exact atRest_settle (transitionsLeft_le s)
  · rw [hstep]
    have hrun := atRest_settle (transitionsLeft_le (accept (decode w) ((s.setCmds rest).latchWord w)))
    rwa [accept_answers] at hrun

/-! ## An answer of the wrong length -/

/-- A block with a request outstanding waits exactly while it has no answer (R67). -/
theorem waiting_of_requestPort {q : Request} (h : s.requestPort = some q) : s.waiting = s.answers.isEmpty := by
  unfold State.requestPort at h
  unfold State.waiting
  cases hphase : s.phase <;> simp [hphase] at h ⊢

/-- In a state that meets the invariant the next transition meets the answer to the outstanding request (R121, R169). -/
theorem tick_of_requestPort {q : Request} (hinv : SeqInv s) (hrst : s.rst = false) (hport : s.requestPort = some q) :
    ∃ k, tick s = onAnswer q.n.toNat s k := by
  unfold SeqInv at hinv
  unfold State.requestPort at hport
  cases hphase : s.phase <;> rw [hphase] at hinv hport <;> cases hport
  case res0 => exact ⟨_, tick_of_res0 hrst hphase⟩
  case res1 => exact ⟨_, tick_of_res1 hrst hphase⟩
  case stat =>
    have ⟨⟨hop, _⟩, _⟩ := hinv
    have hrow := tick_of_stat hrst hphase
    rw [tickStat, hop] at hrow
    exact ⟨_, hrow⟩
  case burst =>
    have ⟨⟨hop, _⟩, _⟩ := hinv
    have hrow := tick_of_burst hrst hphase
    rw [tickBurst, hop] at hrow
    exact ⟨_, hrow⟩
  case srcrd =>
    have ⟨hop, _⟩ := hinv
    have hrow := tick_of_srcrd hrst hphase
    rw [tickSrcrd, hop] at hrow
    exact ⟨_, hrow⟩

/-- Settles O17: a step that is refused is at rest for that answer (`atRest_step`), and the outstanding request's
answer is met by the first transition. -/
theorem malformedAnswersAreRefused : Obligations.MalformedAnswersAreRefused := by
  unfold Obligations.MalformedAnswersAreRefused
  refine ⟨fun s r hstep => ?_, fun s q bs as hinv hrst hport ha hlen => ?_⟩
  · have hrest := atRest_step s
    rwa [hstep] at hrest
  · obtain ⟨k, htick⟩ := tick_of_requestPort hinv hrst hport
    have hw : s.waiting = false := by rw [waiting_of_requestPort hport, ha]; rfl
    have hbusy : s.phase ≠ .idle := fun hidle => by simp [waiting_of_idle hidle] at hw
    rw [step_of_busy hrst hbusy, settleBound, settle_eq_resume hw, htick, onAnswer_of_length_ne ha hlen]
    rfl

end Sys2Proof.Machine
end

section
/-! The hangs (R225): the six waiting phases, and the bounds on what one command does without waiting. Events pass in
`DISPATCH` alone: `PassesNoEvent a o` says of an outcome that none has passed since `a`, and each piece of the other
operations has one rule. -/

namespace Sys2Proof.Machine

variable {a s t : State} {l : List Request}

/-! ## Operations without events -/

/-- No event has passed since `a`. -/
def Eventless (a s : State) : Prop := ∃ items, s.trace = a.trace ++ items ∧ eventsIn items = []

theorem Eventless.keep (h : Eventless a s) (ht : t.trace = s.trace) : Eventless a t := by
  obtain ⟨items, htrace, hitems⟩ := h
  exact ⟨items, ht.trans htrace, hitems⟩

theorem Eventless.pass (h : Eventless a s) {x : PortItem} (hx : eventsIn [x] = []) (ht : t.trace = s.trace ++ [x]) :
    Eventless a t := by
  obtain ⟨items, htrace, hitems⟩ := h
  exact ⟨items ++ [x], by rw [ht, htrace, List.append_assoc], by rw [eventsIn_append, hitems, hx]; rfl⟩

theorem Eventless.ask (h : Eventless a s) (p : Phase) (r : Request) : Eventless a (ask p r s) :=
  h.pass (by simp) (ask_trace ..)

/-- If the outcome is a next state, no event has passed since `a`. -/
def PassesNoEvent (a : State) (o : Out) : Prop := ∀ t, o = .next t → Eventless a t

theorem passesNoEvent_next (h : Eventless a s) : PassesNoEvent a (.next s) := by
  rintro _ ⟨⟩
  exact h

theorem passesNoEvent_finish (h : Eventless a s) (v : Status) (n : Option (BitVec 6)) (c : Option CfgWord)
    (rs : List Record) : PassesNoEvent a (.next (finish v n c rs s)) := by
  rw [finish_eq_ended]
  exact passesNoEvent_next (h.pass (by simp) (ended_trace ..))

theorem passesNoEvent_checked {k : State → Out} (h : Eventless a s) (hk : PassesNoEvent a (k s)) :
    PassesNoEvent a (checked s k) := by
  obtain ⟨e, -, hs⟩ | ⟨-, hs⟩ := checked_cases s k
  · rw [hs]
    exact passesNoEvent_finish h _ _ _ _
  · rw [hs]
    exact hk

theorem passesNoEvent_onAnswer {n : Nat} {k : List Byte → State → Out} (h : Eventless a s)
    (hk : ∀ bs as, Eventless a (s.setAnswers as) → PassesNoEvent a (k bs (s.setAnswers as))) :
    PassesNoEvent a (onAnswer n s k) := by
  have hrest (as : List Answer) : Eventless a (s.setAnswers as) := h.keep rfl
  obtain ⟨-, hs⟩ | ⟨as, -, hs⟩ | ⟨bs, as, -, -, hs⟩ | ⟨bs, as, -, -, hs⟩ := onAnswer_cases n s k
  · rw [hs]
    exact passesNoEvent_next h
  · rw [hs]
    exact passesNoEvent_finish (hrest as) _ _ _ _
  · rw [hs]
    exact hk bs as (hrest as)
  · rw [hs]
    exact fun _ h => nomatch h

theorem passesNoEvent_resolveSeq {k : State → Out} (h : Eventless a s)
    (hk : ∀ t, Eventless a t → PassesNoEvent a (k t)) : PassesNoEvent a (resolveSeq s k) := by
  unfold resolveSeq
  cases s.par.order with
  | ctlFirst =>
    refine passesNoEvent_onAnswer (h.ask ..) fun c as h => ?_
    refine passesNoEvent_onAnswer ((h.keep (gotFifoCtl_trace ..)).ask ..) fun f as h => ?_
    exact hk _ (h.keep (gotDataFormat_trace ..))
  | fmtFirst =>
    refine passesNoEvent_onAnswer (h.ask ..) fun f as h => ?_
    refine passesNoEvent_onAnswer ((h.keep (gotDataFormat_trace ..)).ask ..) fun c as h => ?_
    exact hk _ (h.keep (gotFifoCtl_trace ..))

@[simp] theorem decodeRecords_trace (n : Nat) (s : State) : (decodeRecords n s).trace = s.trace := by
  induction n generalizing s with
  | zero => rfl
  | succ n ih => rw [decodeRecords, ih, decodeNext_trace]

theorem passesNoEvent_readBurst (h : Eventless a s) : PassesNoEvent a (readBurst s) :=
  passesNoEvent_onAnswer (h.ask ..) fun _ _ h =>
    passesNoEvent_finish (h.keep ((decodeRecords_trace ..).trans (gotBurst_trace ..))) _ _ _ _

theorem passesNoEvent_readSamples (h : Eventless a s) : PassesNoEvent a (readSamples s) := by
  unfold readSamples
  split
  next => exact passesNoEvent_readBurst (h.keep (State.setAlen_trace ..))
  next =>
    refine passesNoEvent_onAnswer (h.ask ..) fun bs as h => ?_
    have hcount := h.keep (gotFifoStatus_trace bs _)
    simp only
    split
    next => exact passesNoEvent_finish hcount _ _ _ _
    next => exact passesNoEvent_readBurst hcount

/-- Every command but `DISPATCH`, from its acceptance. -/
theorem passesNoEvent_exec {i : Instr} (hi : ∀ h, i ≠ .dispatch h) (s : State) :
    PassesNoEvent s (exec i s) := by
  have haccept : Eventless s (accept i s) := ⟨[], by rw [accept_trace, List.append_nil], rfl⟩
  cases i with
  | resolve h =>
    rw [exec, execResolve]
    refine passesNoEvent_checked haccept (passesNoEvent_resolveSeq haccept fun t h => ?_)
    exact passesNoEvent_finish h _ _ _ _
  | read h len =>
    rw [exec, execRead]
    exact passesNoEvent_checked haccept (passesNoEvent_resolveSeq haccept fun t => passesNoEvent_readSamples)
  | decode opcfg opb =>
    rw [exec, execDecode, decodeOperand_eq_ended, ← finish_eq_ended]
    exact passesNoEvent_finish haccept _ _ _ _
  | dispatch h => exact absurd rfl (hi h)

/-! ## What one command does without waiting -/

/-- A byte has at most eight events, and only `DISPATCH` reads one (R166). -/
theorem eventsIn_exec_length_le {i : Instr} (ht : exec i s = .next t) : (eventsIn (passed s t)).length ≤ 8 := by
  by_cases hi : ∃ h, i = .dispatch h
  · obtain ⟨h, rfl⟩ := hi
    obtain hnone | ⟨bs, as, -, hprefix⟩ := eventsIn_execDispatch ht
    · simp [hnone]
    · exact hprefix.length_le.trans (Nat.le_of_lt_succ (eventsOf_length_lt _))
  · obtain ⟨items, htrace, hitems⟩ := passesNoEvent_exec (not_exists.mp hi) s t ht
    simp [passed_of_append htrace, hitems]

theorem requestsIn_resolverRequests_length (p : Params) : (requestsIn (resolverRequests p)).length = 2 := by
  cases h : p.order with
  | ctlFirst => rw [requestsIn_resolverRequests_of_ctlFirst h]; rfl
  | fmtFirst => rw [requestsIn_resolverRequests_of_fmtFirst h]; rfl

/-- The longest sequence of R62 is that of `READ`: the two resolver reads, the count and the burst. -/
theorem RequestRule.length_le {p : Params} {i : Instr} (h : RequestRule p i l) : l.length ≤ 4 := by
  have hresolver := requestsIn_resolverRequests_length p
  cases i with
  | resolve hd =>
    have hle := List.IsPrefix.length_le h
    omega
  | read hd len =>
    obtain h | ⟨n, -, h⟩ := h
    · have hle := h.length_le
      simp only [List.length_append, List.length_singleton] at hle
      omega
    · have hle := h.length_le
      simp only [List.length_append, List.length_cons, List.length_nil] at hle
      omega
  | decode opcfg opb =>
    have hl : l = [] := h
    simp [hl]
  | dispatch hd => exact (List.IsPrefix.length_le h).trans (by simp)

theorem requestsIn_exec_length_le {i : Instr} (ht : exec i s = .next t) : (requestsIn (passed s t)).length ≤ 4 := by
  obtain ⟨l, hfollows, hrule⟩ := reaches_exec (Follows.start s) i t ht
  rw [hfollows.requestsIn_passed]
  exact hrule.length_le

/-! ## The six waiting phases -/

/-- A block that waits is idle, or in one of the six phases of R225 with its input missing (R67). -/
theorem waiting_iff : s.waiting = true ↔
    s.phase = .idle ∨
      (s.phase = .res0 ∨ s.phase = .res1 ∨ s.phase = .stat ∨ s.phase = .burst ∨ s.phase = .srcrd) ∧ s.answers = [] ∨
        (s.phase = .emit ∧ s.takes = 0) := by
  unfold State.waiting
  cases s.phase <;> simp

/-- Settles O12: a block that waits does not move, every step ends at rest (`atRest_step`), and a command makes the
requests of its sequence and sends the events of one byte at most. -/
theorem hangsOnlyInSixPhases : Obligations.HangsOnlyInSixPhases := by
  unfold Obligations.HangsOnlyInSixPhases
  refine ⟨fun s hrst h => ?_, fun s t hstep => ?_, fun i s t hexec => ?_⟩
  · have hbusy : s.phase ≠ .idle := by
      intro hidle
      simp [hidle] at h
    rw [step_of_busy hrst hbusy]
    exact settle_of_waiting (waiting_iff.mpr (.inr h))
  · have hrest := atRest_step s
    rw [hstep] at hrest
    exact waiting_iff.mp hrest
  · exact ⟨requestsIn_exec_length_le hexec, eventsIn_exec_length_le hexec⟩

end Sys2Proof.Machine
end

section
/-! `READ` of one record against `RESOLVE` and `DECODE` (95_test_vectors.md program P7): the completion of each of the
three commands, and the order of the resolver reads (D7, U12). -/

namespace Sys2Proof.Machine

/-- Settles O31: the resolver's sequence ends with the same `CFG` in both orders (`execResolve_of_answers`). -/
theorem resolveInEitherOrder : Obligations.ResolveInEitherOrder := by
  unfold Obligations.ResolveInEitherOrder
  intro s c f as ha
  exact execResolve_of_answers ha

/-- What passed in an operation that ended, seen from a state with the same trace as the one it began in. -/
@[simp] theorem passed_ended {s t : State} (h : t.trace = s.trace) (items : List PortItem) (as : List Answer)
    (n : Nat) : passed s (ended t items as n) = items := passed_of_append (by rw [ended_trace, h])

@[simp] theorem completionsIn_resolverRequests (p : Params) : completionsIn (resolverRequests p) = [] := by
  unfold resolverRequests
  cases p.order <;> simp

/-- `DECODE` of six bytes delivers their record under the operand's configuration (R132). -/
theorem exec_decode_opbOf (s : State) (cfg : CfgWord) (b : Six) :
    exec (.decode cfg (opbOf b)) s =
      .next (ended s [.completion ⟨.ok, some 1, none, [decodeOne s.par cfg b]⟩] s.answers s.takes) := by
  rw [decodeDeliversOneRecord, opbOf_bytes]

/-- `READ` of one record out of Bypass mode, from a queue that is not empty: a burst of its six bytes (R114, R116,
R117). -/
theorem exec_read_one {s : State} {c f q : Byte} {b : Six} {as : List Answer}
    (hmode : cfgMode s.par (cfgOf c f) ≠ .bypass) (hq : q.toNat % 64 ≠ 0)
    (ha : s.answers = resolverAnswers s.par c f ++ .ok [q] :: .ok [b.b0, b.b1, b.b2, b.b3, b.b4, b.b5] :: as) :
    exec (.read ⟨true, true⟩ 1) s =
      .next (ended s (resolverRequests s.par ++ [.request (reqFifoStatus s.par), .request ⟨.read, s.par.addrDataX0, 6⟩,
        .completion ⟨.ok, some 1, none, [decodeOne s.par (cfgOf c f) b]⟩]) as s.takes) := by
  have hmin : 1 = min (1 : BitVec 16).toNat (q.toNat % 64) := by
    have hone : (1 : BitVec 16).toNat = 1 := rfl
    omega
  rw [readDeliversTheQueuedRecords s 1 c f q _ as 1 hmin one_ne_zero hmode rfl ha]
  rfl

/-- Settles O39: the one completion of each command, and both records are the decode of the same bytes under `cfgOf`. -/
theorem readIsResolveThenDecode : Obligations.ReadIsResolveThenDecode := by
  unfold Obligations.ReadIsResolveThenDecode
  rintro s c f q b forResolve forRead as hmode hq rfl rfl
  refine ⟨_, _, _, execResolve_of_answers (as := []) (List.append_nil _).symm, exec_decode_opbOf s _ b,
    exec_read_one hmode hq rfl, ?_, ?_, ?_⟩
  · simp
  · simp
  · simp

end Sys2Proof.Machine
end
